-- ==== Sys2Proof/Word.lean ====
section
/-! DEFINITION. The word types of the block: the 8-bit byte (R5, R10), the 16- and 17-bit
quantities of the records of R93 to R96, and text as a sequence of bytes (R11). -/

namespace Sys2Proof

/-- The addressable unit, an unsigned 8-bit value (R5, R10, R51). -/
abbrev Byte := BitVec 8

/-- A 16-bit value: an index argument, an operand, a checksum, a code (R82, R93, R95). -/
abbrev Half := BitVec 16

/-- The 17-bit width of the index fields of an error record (R95). -/
abbrev Wide := BitVec 17

/-- A text value is a byte sequence read as ASCII (R11). -/
abbrev Text := List Byte

/-- Literal text, written in double quotes in the spec (R11). -/
def text (s : String) : Text := s.toList.map fun c => BitVec.ofNat 8 c.toNat

end Sys2Proof
end

