-- ==== Sys2Proof/Syntax.lean ====
section
/-! DEFINITION. The instructions: one constructor per row of the opcode table, the 34 block operations of
R82 and the 4 target-stream rows of R231 and R236 to R238, with their operands. -/

namespace Sys2Proof

/-- The disassembler mode, strict (0) or permissive (1) (R30, R222). -/
inductive Mode where
  | strict
  | permissive
  deriving DecidableEq, Repr

/-- The start bound of a range argument (R83). -/
inductive StartBound where
  | unbounded
  | fromIdx (s : Half)
  deriving DecidableEq, Repr

/-- The end bound of a range argument: exclusive or inclusive end, or none (R83). -/
inductive EndBound where
  | unbounded
  | toExcl (e : Half)
  | toIncl (e : Half)
  deriving DecidableEq, Repr

/-- A range argument (R83). -/
structure RangeArg where
  start : StartBound
  stop  : EndBound
  deriving DecidableEq, Repr

/-- The instructions, in the table's order. The last four are the classes of the target byte stream that
the table lists; every other target opcode is content of the opcode-table parameters and is classified by
`disStep` (R221). -/
inductive Instr where
  | bufLoad (image : List Byte) (name : Text)
  | bufGetb (index : Half)
  | bufGetr (range : RangeArg)
  | bufPutr (range : RangeArg) (data : List Byte)
  | hdrEntry
  | hdrLogo
  | hdrTitle
  | hdrManuf
  | hdrCgb
  | hdrNewlic
  | hdrSgb
  | hdrCtype
  | hdrRomsz
  | hdrRamsz
  | hdrDest
  | hdrOldlic
  | hdrVer
  | hdrHchk
  | hdrGchk
  | hdrLicensee
  | hdrAll
  | chkHdr
  | chkGlb
  | valLogo
  | valRam
  | valHchk
  | valGchk
  | valAll
  | disStart (mode : Mode)
  | disStep
  | disRun (mode : Mode)
  | epdClear
  | epdInsert
  | epdSorted
  /-- The target opcode 0x00, format STD0 (R236). -/
  | nop
  /-- The target opcode 0xC3, format STD2, with its 16-bit operand (R237). -/
  | jpA16 (target : Half)
  /-- The escape byte 0xCB and the prefixed opcode `o` after it (R238). `l` and `h` are the operand bytes
  of the formats CB1 (`l` is its `d`) and CB2; the entry of `o` says how many of them there are. -/
  | prefixCb (o l h : Byte)
  /-- A byte with no entry in the standard table, format UNK (R231). -/
  | unknown (x : Byte)
  deriving DecidableEq, Repr

/-- Is the instruction one of the 34 block operations, which a host issues as a request (R82)? -/
def Instr.isRequest : Instr → Bool
  | .bufLoad _ _ | .bufGetb _ | .bufGetr _ | .bufPutr _ _ => true
  | .hdrEntry | .hdrLogo | .hdrTitle | .hdrManuf | .hdrCgb | .hdrNewlic | .hdrSgb | .hdrCtype => true
  | .hdrRomsz | .hdrRamsz | .hdrDest | .hdrOldlic | .hdrVer | .hdrHchk | .hdrGchk => true
  | .hdrLicensee | .hdrAll => true
  | .chkHdr | .chkGlb | .valLogo | .valRam | .valHchk | .valGchk | .valAll => true
  | .disStart _ | .disStep | .disRun _ | .epdClear | .epdInsert | .epdSorted => true
  | .nop | .jpA16 _ | .prefixCb _ _ _ | .unknown _ => false

end Sys2Proof
end

