-- ==== Sys2Proof/Machine/Operands.lean ====
section
/-! DEFINITION. Operand forms: byte order (R54 to R56), the operand value of a target instruction (R88 to
R90), and the resolution of a range argument (R83). -/

namespace Sys2Proof.Machine

/-- The bytes of a sequence as one number, the first in the most significant place: the stored global
checksum (R54) and the new-licensee key (R172). -/
def bigEndian (l : List Byte) : Half := BitVec.ofNat 16 (l.foldl (fun v b => v * 256 + b.toNat) 0)

/-- The bytes of a sequence as one number, the low byte first: `zext` of one operand byte (R88),
`hi ++ lo` of two (R55, R89), and 0 when there is none (R90). -/
def operandValue (l : List Byte) : Half := bigEndian l.reverse

/-- The low byte of a 16-bit value. -/
def lowByte (v : Half) : Byte := v.extractLsb' 0 8

/-- The high byte of a 16-bit value. -/
def highByte (v : Half) : Byte := v.extractLsb' 8 8

/-- A 16-bit value as two bytes, low byte first (R55). -/
def leBytes (v : Half) : List Byte := [lowByte v, highByte v]

/-- The start `s'` of a range: 0 when unbounded (R83). -/
def resolveStart : StartBound → Nat
  | .unbounded => 0
  | .fromIdx s => s.toNat

/-- The exclusive end `e'` of a range: `LEN` when unbounded, and never wrapped to 0 (R83, R51). -/
def resolveEnd (len : Nat) : EndBound → Nat
  | .unbounded => len
  | .toExcl e => e.toNat
  | .toIncl e => e.toNat + 1

end Sys2Proof.Machine
end

