-- ==== Sys2Proof/Config.lean ====
section
/-! DEFINITION. The parameters a model takes as an argument (R6, R7), as plain data, and the one value
the spec leaves open without naming a parameter for it. The parameters are constants of the machine,
never written (R36, R312); the state carries them because `step` has no other argument (log entry 1). -/

namespace Sys2Proof

/-- `nops`, the operand byte count of an opcode-table entry: 0, 1 or 2 and nothing else, so that an
ill-formed entry (3 or more, R85) cannot be written down. -/
inductive OperandCount where
  | zero
  | one
  | two
  deriving DecidableEq, Repr

/-- An entry of an opcode table: "mnemonic, operand byte count, clock cycle count, and affected flags" (R91). -/
structure OpEntry where
  mnemonic : Text
  nops     : OperandCount
  cycles   : Byte
  flags    : Byte
  deriving DecidableEq, Repr

/-- The memory-bank-controller generation: 0 (none), 1, 2, 3, 5, 6 or 7; 4 is never produced (R96, R177). -/
inductive Mbc where
  | none
  | mbc1
  | mbc2
  | mbc3
  | mbc5
  | mbc6
  | mbc7
  deriving DecidableEq, Repr

/-- CartridgeType: the twelve fields of R96 as a record, which the rule allows beside its packing. -/
structure CartridgeType where
  mbc     : Mbc
  ram     : Bool
  battery : Bool
  rom     : Bool
  mmm01   : Bool
  timer   : Bool
  rumble  : Bool
  sensor  : Bool
  camera  : Bool
  tama    : Bool
  huc     : BitVec 2
  deriving DecidableEq, Repr

/-- The two destinations a row of `DEST_ROM` can name (R183). -/
inductive Region where
  | japan
  | overseas
  deriving DecidableEq, Repr

/-- `GCHK_RANGE`: the byte range of the global checksum (R7, R202). -/
inductive GchkRange where
  | whole
  | header
  deriving DecidableEq, Repr

/-- The parameters of R6 and R7. A table is its list of open rows (the first row of a code counts); the
rows the document pins are added by the accessors of Machine/Tables.lean, so every value of this type is
a well-formed choice of the parameters. `nopCycles` to `jpFlags` are the two fields of the pinned
entries `NOP` and `JP a16` that the document does not give (R236, R237). -/
structure Params where
  bufRw     : Bool
  gchkRange : GchkRange
  logoRef   : Vector Byte 48
  oldLic    : List (Byte × Text)
  newLic    : List (Half × Text)
  ctypeRows : List (Byte × CartridgeType)
  destRows  : List (Byte × Region)
  stdRows   : List (Byte × OpEntry)
  cbRows    : List (Byte × OpEntry)
  nopCycles : Byte
  nopFlags  : Byte
  jpCycles  : Byte
  jpFlags   : Byte
  unkMnem   : Text
  deriving DecidableEq, Repr

/-- A free value, with no body (log entry 6). R120 gives a refused over-long image `index = len(image)`;
the field has 17 bits (R95) and no rule says what it holds for a length that does not fit. -/
opaque Config.loadTooLongIndex : Nat → Wide

end Sys2Proof
end

