-- ==== Sys2Proof/Machine/Tables.lean ====
section
/-! DEFINITION. The tables: their accessors, which hold the rows the document pins (R171, R175, R176, R236,
R237), and the named instantiations of the spec: the minimal ones `OPROM_MIN` and `LIC_MIN` (R221, R263)
and the reference ones (R260 to R262, R270 to R272), which come from general knowledge (log entry 2). -/

namespace Sys2Proof.Machine

/-- The number of operand bytes (R85). -/
def opBytes : OperandCount → Nat
  | .zero => 0
  | .one => 1
  | .two => 2

/-! ## Accessors with the pinned rows -/

/-- `OLD_LIC_ROM[b]`; the document pins 0x01 (R171). -/
def oldLicRom (p : Params) (b : Byte) : Option Text :=
  if b = 0x01 then some (text "Nintendo") else p.oldLic.lookup b

/-- `NEW_LIC_ROM[key]`; the document pins no row (R172). -/
def newLicRom (p : Params) (key : Half) : Option Text := p.newLic.lookup key

/-- A CartridgeType with every field false or 0. -/
def plainType : CartridgeType :=
  { mbc := .none, ram := false, battery := false, rom := false, mmm01 := false, timer := false, rumble := false,
    sensor := false, camera := false, tama := false, huc := 0 }

/-- `CTYPE_ROM[b]`: 0x00 and 0x13 are pinned (R175), 0x23 to 0xFB map to nothing (R176). -/
def ctypeRom (p : Params) (b : Byte) : Option CartridgeType :=
  if b = 0x00 then some { plainType with rom := true }
  else if b = 0x13 then some { plainType with mbc := .mbc3, ram := true, battery := true }
  else if 0x23 ≤ b ∧ b ≤ 0xFB then none
  else p.ctypeRows.lookup b

/-- `DEST_ROM[b]`; the document pins no code (R183). -/
def destRom (p : Params) (b : Byte) : Option Region := p.destRows.lookup b

/-- `OPROM_STD[b]`: 0x00 is `NOP` and 0xC3 is `JP a16`, with the operand counts of the document and the
parameter's cycles and flags (R236, R237). The position 0xCB is never consulted (R87). -/
def opromStd (p : Params) (b : Byte) : Option OpEntry :=
  if b = 0x00 then some { mnemonic := text "NOP", nops := .zero, cycles := p.nopCycles, flags := p.nopFlags }
  else if b = 0xC3 then some { mnemonic := text "JP a16", nops := .two, cycles := p.jpCycles, flags := p.jpFlags }
  else p.stdRows.lookup b

/-- `OPROM_CB[b]`; the document pins no entry (R238). -/
def opromCb (p : Params) (b : Byte) : Option OpEntry := p.cbRows.lookup b

/-! ## The packing of a CartridgeType (R96) -/

/-- The 3-bit `mbc` field. -/
def mbcCode : Mbc → BitVec 3
  | .none => 0
  | .mbc1 => 1
  | .mbc2 => 2
  | .mbc3 => 3
  | .mbc5 => 5
  | .mbc6 => 6
  | .mbc7 => 7

/-- The 16-bit word: bits [15:14] zero, `huc` in [13:12], the nine flags in [11:3], `mbc` in [2:0] (R96). -/
def packCtype (t : CartridgeType) : Half :=
  (0 : BitVec 2) ++ t.huc ++ BitVec.ofBool t.tama ++ BitVec.ofBool t.camera ++ BitVec.ofBool t.sensor ++
    BitVec.ofBool t.rumble ++ BitVec.ofBool t.timer ++ BitVec.ofBool t.mmm01 ++ BitVec.ofBool t.rom ++
    BitVec.ofBool t.battery ++ BitVec.ofBool t.ram ++ mbcCode t.mbc

/-- The `mbc` field read back; 4 is no controller (R177). -/
def mbcOfCode (c : BitVec 3) : Option Mbc :=
  if c = 0 then some .none else if c = 1 then some .mbc1 else if c = 2 then some .mbc2
  else if c = 3 then some .mbc3 else if c = 5 then some .mbc5 else if c = 6 then some .mbc6
  else if c = 7 then some .mbc7 else none

/-- A word as a CartridgeType; an ill-formed word (`mbc` 4, or a bit of [15:14] set) is none (R177). -/
def unpackCtype (w : Half) : Option CartridgeType :=
  if w.extractLsb' 14 2 = 0 then
    (mbcOfCode (w.extractLsb' 0 3)).map fun m =>
      { mbc := m, ram := w.getLsbD 3, battery := w.getLsbD 4, rom := w.getLsbD 5, mmm01 := w.getLsbD 6,
        timer := w.getLsbD 7, rumble := w.getLsbD 8, sensor := w.getLsbD 9, camera := w.getLsbD 10,
        tama := w.getLsbD 11, huc := w.extractLsb' 12 2 }
  else none

/-! ## Reference instantiations, from general knowledge (PRESUMED, log entry 2) -/

/-- `LOGO_REF` (R260). -/
def refLogo : Vector Byte 48 := #v[
  0xCE, 0xED, 0x66, 0x66, 0xCC, 0x0D, 0x00, 0x0B, 0x03, 0x73, 0x00, 0x83, 0x00, 0x0C, 0x00, 0x0D,
  0x00, 0x08, 0x11, 0x1F, 0x88, 0x89, 0x00, 0x0E, 0xDC, 0xCC, 0x6E, 0xE6, 0xDD, 0xDD, 0xD9, 0x99,
  0xBB, 0xBB, 0x67, 0x63, 0x6E, 0x0E, 0xEC, 0xCC, 0xDD, 0xDC, 0x99, 0x9F, 0xBB, 0xB9, 0x33, 0x3E]

/-- `CTYPE_ROM`, the reference rows less the two pinned ones (R261). -/
def refCtypeRows : List (Byte × CartridgeType) := [
  (0x01, { plainType with mbc := .mbc1 }),
  (0x02, { plainType with mbc := .mbc1, ram := true }),
  (0x03, { plainType with mbc := .mbc1, ram := true, battery := true }),
  (0x05, { plainType with mbc := .mbc2 }),
  (0x06, { plainType with mbc := .mbc2, battery := true }),
  (0x08, { plainType with rom := true, ram := true }),
  (0x09, { plainType with rom := true, ram := true, battery := true }),
  (0x0B, { plainType with mmm01 := true }),
  (0x0C, { plainType with mmm01 := true, ram := true }),
  (0x0D, { plainType with mmm01 := true, ram := true, battery := true }),
  (0x0F, { plainType with mbc := .mbc3, timer := true, battery := true }),
  (0x10, { plainType with mbc := .mbc3, timer := true, ram := true, battery := true }),
  (0x11, { plainType with mbc := .mbc3 }),
  (0x12, { plainType with mbc := .mbc3, ram := true }),
  (0x19, { plainType with mbc := .mbc5 }),
  (0x1A, { plainType with mbc := .mbc5, ram := true }),
  (0x1B, { plainType with mbc := .mbc5, ram := true, battery := true }),
  (0x1C, { plainType with mbc := .mbc5, rumble := true }),
  (0x1D, { plainType with mbc := .mbc5, rumble := true, ram := true }),
  (0x1E, { plainType with mbc := .mbc5, rumble := true, ram := true, battery := true }),
  (0x20, { plainType with mbc := .mbc6 }),
  (0x22, { plainType with mbc := .mbc7, sensor := true, rumble := true, ram := true, battery := true }),
  (0xFC, { plainType with camera := true }),
  (0xFD, { plainType with tama := true }),
  (0xFE, { plainType with huc := 3 }),
  (0xFF, { plainType with huc := 1, ram := true, battery := true })]

/-- `DEST_ROM` (R262). -/
def refDestRows : List (Byte × Region) := [(0x00, .japan), (0x01, .overseas)]

/-- A row of the standard table. -/
def row (b : Byte) (m : String) (n : OperandCount) (c f : Byte) : Byte × OpEntry :=
  (b, { mnemonic := text m, nops := n, cycles := c, flags := f })

/-- `OPROM_REF` standard rows 0x00 to 0x1F (R271). -/
def refStdRows0 : List (Byte × OpEntry) := [
  row 0x01 "LD BC,d16" .two 12 0x00,
  row 0x02 "LD (BC),A" .zero 8 0x00,
  row 0x03 "INC BC" .zero 8 0x00,
  row 0x04 "INC B" .zero 4 0xE0,
  row 0x05 "DEC B" .zero 4 0xE0,
  row 0x06 "LD B,d8" .one 8 0x00,
  row 0x07 "RLCA" .zero 4 0xF0,
  row 0x08 "LD (a16),SP" .two 20 0x00,
  row 0x09 "ADD HL,BC" .zero 8 0x70,
  row 0x0A "LD A,(BC)" .zero 8 0x00,
  row 0x0B "DEC BC" .zero 8 0x00,
  row 0x0C "INC C" .zero 4 0xE0,
  row 0x0D "DEC C" .zero 4 0xE0,
  row 0x0E "LD C,d8" .one 8 0x00,
  row 0x0F "RRCA" .zero 4 0xF0,
  row 0x10 "STOP 0" .one 4 0x00,
  row 0x11 "LD DE,d16" .two 12 0x00,
  row 0x12 "LD (DE),A" .zero 8 0x00,
  row 0x13 "INC DE" .zero 8 0x00,
  row 0x14 "INC D" .zero 4 0xE0,
  row 0x15 "DEC D" .zero 4 0xE0,
  row 0x16 "LD D,d8" .one 8 0x00,
  row 0x17 "RLA" .zero 4 0xF0,
  row 0x18 "JR r8" .one 12 0x00,
  row 0x19 "ADD HL,DE" .zero 8 0x70,
  row 0x1A "LD A,(DE)" .zero 8 0x00,
  row 0x1B "DEC DE" .zero 8 0x00,
  row 0x1C "INC E" .zero 4 0xE0,
  row 0x1D "DEC E" .zero 4 0xE0,
  row 0x1E "LD E,d8" .one 8 0x00,
  row 0x1F "RRA" .zero 4 0xF0]

/-- `OPROM_REF` standard rows 0x20 to 0x3F (R271). -/
def refStdRows1 : List (Byte × OpEntry) := [
  row 0x20 "JR NZ,r8" .one 8 0x00,
  row 0x21 "LD HL,d16" .two 12 0x00,
  row 0x22 "LD (HL+),A" .zero 8 0x00,
  row 0x23 "INC HL" .zero 8 0x00,
  row 0x24 "INC H" .zero 4 0xE0,
  row 0x25 "DEC H" .zero 4 0xE0,
  row 0x26 "LD H,d8" .one 8 0x00,
  row 0x27 "DAA" .zero 4 0xB0,
  row 0x28 "JR Z,r8" .one 8 0x00,
  row 0x29 "ADD HL,HL" .zero 8 0x70,
  row 0x2A "LD A,(HL+)" .zero 8 0x00,
  row 0x2B "DEC HL" .zero 8 0x00,
  row 0x2C "INC L" .zero 4 0xE0,
  row 0x2D "DEC L" .zero 4 0xE0,
  row 0x2E "LD L,d8" .one 8 0x00,
  row 0x2F "CPL" .zero 4 0x60,
  row 0x30 "JR NC,r8" .one 8 0x00,
  row 0x31 "LD SP,d16" .two 12 0x00,
  row 0x32 "LD (HL-),A" .zero 8 0x00,
  row 0x33 "INC SP" .zero 8 0x00,
  row 0x34 "INC (HL)" .zero 12 0xE0,
  row 0x35 "DEC (HL)" .zero 12 0xE0,
  row 0x36 "LD (HL),d8" .one 12 0x00,
  row 0x37 "SCF" .zero 4 0x70,
  row 0x38 "JR C,r8" .one 8 0x00,
  row 0x39 "ADD HL,SP" .zero 8 0x70,
  row 0x3A "LD A,(HL-)" .zero 8 0x00,
  row 0x3B "DEC SP" .zero 8 0x00,
  row 0x3C "INC A" .zero 4 0xE0,
  row 0x3D "DEC A" .zero 4 0xE0,
  row 0x3E "LD A,d8" .one 8 0x00,
  row 0x3F "CCF" .zero 4 0x70]

/-- `OPROM_REF` standard rows 0x40 to 0x5F (R271). -/
def refStdRows2 : List (Byte × OpEntry) := [
  row 0x40 "LD B,B" .zero 4 0x00,
  row 0x41 "LD B,C" .zero 4 0x00,
  row 0x42 "LD B,D" .zero 4 0x00,
  row 0x43 "LD B,E" .zero 4 0x00,
  row 0x44 "LD B,H" .zero 4 0x00,
  row 0x45 "LD B,L" .zero 4 0x00,
  row 0x46 "LD B,(HL)" .zero 8 0x00,
  row 0x47 "LD B,A" .zero 4 0x00,
  row 0x48 "LD C,B" .zero 4 0x00,
  row 0x49 "LD C,C" .zero 4 0x00,
  row 0x4A "LD C,D" .zero 4 0x00,
  row 0x4B "LD C,E" .zero 4 0x00,
  row 0x4C "LD C,H" .zero 4 0x00,
  row 0x4D "LD C,L" .zero 4 0x00,
  row 0x4E "LD C,(HL)" .zero 8 0x00,
  row 0x4F "LD C,A" .zero 4 0x00,
  row 0x50 "LD D,B" .zero 4 0x00,
  row 0x51 "LD D,C" .zero 4 0x00,
  row 0x52 "LD D,D" .zero 4 0x00,
  row 0x53 "LD D,E" .zero 4 0x00,
  row 0x54 "LD D,H" .zero 4 0x00,
  row 0x55 "LD D,L" .zero 4 0x00,
  row 0x56 "LD D,(HL)" .zero 8 0x00,
  row 0x57 "LD D,A" .zero 4 0x00,
  row 0x58 "LD E,B" .zero 4 0x00,
  row 0x59 "LD E,C" .zero 4 0x00,
  row 0x5A "LD E,D" .zero 4 0x00,
  row 0x5B "LD E,E" .zero 4 0x00,
  row 0x5C "LD E,H" .zero 4 0x00,
  row 0x5D "LD E,L" .zero 4 0x00,
  row 0x5E "LD E,(HL)" .zero 8 0x00,
  row 0x5F "LD E,A" .zero 4 0x00]

/-- `OPROM_REF` standard rows 0x60 to 0x7F (R271). -/
def refStdRows3 : List (Byte × OpEntry) := [
  row 0x60 "LD H,B" .zero 4 0x00,
  row 0x61 "LD H,C" .zero 4 0x00,
  row 0x62 "LD H,D" .zero 4 0x00,
  row 0x63 "LD H,E" .zero 4 0x00,
  row 0x64 "LD H,H" .zero 4 0x00,
  row 0x65 "LD H,L" .zero 4 0x00,
  row 0x66 "LD H,(HL)" .zero 8 0x00,
  row 0x67 "LD H,A" .zero 4 0x00,
  row 0x68 "LD L,B" .zero 4 0x00,
  row 0x69 "LD L,C" .zero 4 0x00,
  row 0x6A "LD L,D" .zero 4 0x00,
  row 0x6B "LD L,E" .zero 4 0x00,
  row 0x6C "LD L,H" .zero 4 0x00,
  row 0x6D "LD L,L" .zero 4 0x00,
  row 0x6E "LD L,(HL)" .zero 8 0x00,
  row 0x6F "LD L,A" .zero 4 0x00,
  row 0x70 "LD (HL),B" .zero 8 0x00,
  row 0x71 "LD (HL),C" .zero 8 0x00,
  row 0x72 "LD (HL),D" .zero 8 0x00,
  row 0x73 "LD (HL),E" .zero 8 0x00,
  row 0x74 "LD (HL),H" .zero 8 0x00,
  row 0x75 "LD (HL),L" .zero 8 0x00,
  row 0x76 "HALT" .zero 4 0x00,
  row 0x77 "LD (HL),A" .zero 8 0x00,
  row 0x78 "LD A,B" .zero 4 0x00,
  row 0x79 "LD A,C" .zero 4 0x00,
  row 0x7A "LD A,D" .zero 4 0x00,
  row 0x7B "LD A,E" .zero 4 0x00,
  row 0x7C "LD A,H" .zero 4 0x00,
  row 0x7D "LD A,L" .zero 4 0x00,
  row 0x7E "LD A,(HL)" .zero 8 0x00,
  row 0x7F "LD A,A" .zero 4 0x00]

/-- `OPROM_REF` standard rows 0x80 to 0x9F (R271). -/
def refStdRows4 : List (Byte × OpEntry) := [
  row 0x80 "ADD A,B" .zero 4 0xF0,
  row 0x81 "ADD A,C" .zero 4 0xF0,
  row 0x82 "ADD A,D" .zero 4 0xF0,
  row 0x83 "ADD A,E" .zero 4 0xF0,
  row 0x84 "ADD A,H" .zero 4 0xF0,
  row 0x85 "ADD A,L" .zero 4 0xF0,
  row 0x86 "ADD A,(HL)" .zero 8 0xF0,
  row 0x87 "ADD A,A" .zero 4 0xF0,
  row 0x88 "ADC A,B" .zero 4 0xF0,
  row 0x89 "ADC A,C" .zero 4 0xF0,
  row 0x8A "ADC A,D" .zero 4 0xF0,
  row 0x8B "ADC A,E" .zero 4 0xF0,
  row 0x8C "ADC A,H" .zero 4 0xF0,
  row 0x8D "ADC A,L" .zero 4 0xF0,
  row 0x8E "ADC A,(HL)" .zero 8 0xF0,
  row 0x8F "ADC A,A" .zero 4 0xF0,
  row 0x90 "SUB B" .zero 4 0xF0,
  row 0x91 "SUB C" .zero 4 0xF0,
  row 0x92 "SUB D" .zero 4 0xF0,
  row 0x93 "SUB E" .zero 4 0xF0,
  row 0x94 "SUB H" .zero 4 0xF0,
  row 0x95 "SUB L" .zero 4 0xF0,
  row 0x96 "SUB (HL)" .zero 8 0xF0,
  row 0x97 "SUB A" .zero 4 0xF0,
  row 0x98 "SBC A,B" .zero 4 0xF0,
  row 0x99 "SBC A,C" .zero 4 0xF0,
  row 0x9A "SBC A,D" .zero 4 0xF0,
  row 0x9B "SBC A,E" .zero 4 0xF0,
  row 0x9C "SBC A,H" .zero 4 0xF0,
  row 0x9D "SBC A,L" .zero 4 0xF0,
  row 0x9E "SBC A,(HL)" .zero 8 0xF0,
  row 0x9F "SBC A,A" .zero 4 0xF0]

/-- `OPROM_REF` standard rows 0xA0 to 0xBF (R271). -/
def refStdRows5 : List (Byte × OpEntry) := [
  row 0xA0 "AND B" .zero 4 0xF0,
  row 0xA1 "AND C" .zero 4 0xF0,
  row 0xA2 "AND D" .zero 4 0xF0,
  row 0xA3 "AND E" .zero 4 0xF0,
  row 0xA4 "AND H" .zero 4 0xF0,
  row 0xA5 "AND L" .zero 4 0xF0,
  row 0xA6 "AND (HL)" .zero 8 0xF0,
  row 0xA7 "AND A" .zero 4 0xF0,
  row 0xA8 "XOR B" .zero 4 0xF0,
  row 0xA9 "XOR C" .zero 4 0xF0,
  row 0xAA "XOR D" .zero 4 0xF0,
  row 0xAB "XOR E" .zero 4 0xF0,
  row 0xAC "XOR H" .zero 4 0xF0,
  row 0xAD "XOR L" .zero 4 0xF0,
  row 0xAE "XOR (HL)" .zero 8 0xF0,
  row 0xAF "XOR A" .zero 4 0xF0,
  row 0xB0 "OR B" .zero 4 0xF0,
  row 0xB1 "OR C" .zero 4 0xF0,
  row 0xB2 "OR D" .zero 4 0xF0,
  row 0xB3 "OR E" .zero 4 0xF0,
  row 0xB4 "OR H" .zero 4 0xF0,
  row 0xB5 "OR L" .zero 4 0xF0,
  row 0xB6 "OR (HL)" .zero 8 0xF0,
  row 0xB7 "OR A" .zero 4 0xF0,
  row 0xB8 "CP B" .zero 4 0xF0,
  row 0xB9 "CP C" .zero 4 0xF0,
  row 0xBA "CP D" .zero 4 0xF0,
  row 0xBB "CP E" .zero 4 0xF0,
  row 0xBC "CP H" .zero 4 0xF0,
  row 0xBD "CP L" .zero 4 0xF0,
  row 0xBE "CP (HL)" .zero 8 0xF0,
  row 0xBF "CP A" .zero 4 0xF0]

/-- `OPROM_REF` standard rows 0xC0 to 0xDF (R271). -/
def refStdRows6 : List (Byte × OpEntry) := [
  row 0xC0 "RET NZ" .zero 8 0x00,
  row 0xC1 "POP BC" .zero 12 0x00,
  row 0xC2 "JP NZ,a16" .two 12 0x00,
  row 0xC4 "CALL NZ,a16" .two 12 0x00,
  row 0xC5 "PUSH BC" .zero 16 0x00,
  row 0xC6 "ADD A,d8" .one 8 0xF0,
  row 0xC7 "RST 00H" .zero 16 0x00,
  row 0xC8 "RET Z" .zero 8 0x00,
  row 0xC9 "RET" .zero 16 0x00,
  row 0xCA "JP Z,a16" .two 12 0x00,
  row 0xCC "CALL Z,a16" .two 12 0x00,
  row 0xCD "CALL a16" .two 24 0x00,
  row 0xCE "ADC A,d8" .one 8 0xF0,
  row 0xCF "RST 08H" .zero 16 0x00,
  row 0xD0 "RET NC" .zero 8 0x00,
  row 0xD1 "POP DE" .zero 12 0x00,
  row 0xD2 "JP NC,a16" .two 12 0x00,
  row 0xD4 "CALL NC,a16" .two 12 0x00,
  row 0xD5 "PUSH DE" .zero 16 0x00,
  row 0xD6 "SUB d8" .one 8 0xF0,
  row 0xD7 "RST 10H" .zero 16 0x00,
  row 0xD8 "RET C" .zero 8 0x00,
  row 0xD9 "RETI" .zero 16 0x00,
  row 0xDA "JP C,a16" .two 12 0x00,
  row 0xDC "CALL C,a16" .two 12 0x00,
  row 0xDE "SBC A,d8" .one 8 0xF0,
  row 0xDF "RST 18H" .zero 16 0x00]

/-- `OPROM_REF` standard rows 0xE0 to 0xFF (R271). -/
def refStdRows7 : List (Byte × OpEntry) := [
  row 0xE0 "LDH (a8),A" .one 12 0x00,
  row 0xE1 "POP HL" .zero 12 0x00,
  row 0xE2 "LD (C),A" .zero 8 0x00,
  row 0xE5 "PUSH HL" .zero 16 0x00,
  row 0xE6 "AND d8" .one 8 0xF0,
  row 0xE7 "RST 20H" .zero 16 0x00,
  row 0xE8 "ADD SP,r8" .one 16 0xF0,
  row 0xE9 "JP (HL)" .zero 4 0x00,
  row 0xEA "LD (a16),A" .two 16 0x00,
  row 0xEE "XOR d8" .one 8 0xF0,
  row 0xEF "RST 28H" .zero 16 0x00,
  row 0xF0 "LDH A,(a8)" .one 12 0x00,
  row 0xF1 "POP AF" .zero 12 0xF0,
  row 0xF2 "LD A,(C)" .zero 8 0x00,
  row 0xF3 "DI" .zero 4 0x00,
  row 0xF5 "PUSH AF" .zero 16 0x00,
  row 0xF6 "OR d8" .one 8 0xF0,
  row 0xF7 "RST 30H" .zero 16 0x00,
  row 0xF8 "LD HL,SP+r8" .one 12 0xF0,
  row 0xF9 "LD SP,HL" .zero 8 0x00,
  row 0xFA "LD A,(a16)" .two 16 0x00,
  row 0xFB "EI" .zero 4 0x00,
  row 0xFE "CP d8" .one 8 0xF0,
  row 0xFF "RST 38H" .zero 16 0x00]

/-- `OPROM_REF`, the standard table less the two pinned rows (R271). -/
def refStdRows : List (Byte × OpEntry) :=
  refStdRows0 ++ refStdRows1 ++ refStdRows2 ++ refStdRows3 ++ refStdRows4 ++ refStdRows5 ++ refStdRows6 ++ refStdRows7

/-- The register named by `z` in a prefixed opcode (R272). -/
def cbReg (z : Nat) : Text :=
  text (["B", "C", "D", "E", "H", "L", "(HL)", "A"].getD z "")

/-- The operation named by `x` and `y`: a rotate or shift for `x = 0`, else BIT, RES or SET with the bit number (R272). -/
def cbOp (x y : Nat) : Text :=
  if x = 0 then text (["RLC ", "RRC ", "RL ", "RR ", "SLA ", "SRA ", "SWAP ", "SRL "].getD y "")
  else text (["", "BIT ", "RES ", "SET "].getD x "") ++ [BitVec.ofNat 8 (0x30 + y)] ++ text ","

/-- `OPROM_REF`, the prefixed entry of `op = x*64 + y*8 + z` (R272). -/
def cbEntry (op : Nat) : OpEntry :=
  let x := op / 64
  let y := op / 8 % 8
  let z := op % 8
  { mnemonic := cbOp x y ++ cbReg z
    nops := .zero
    cycles := if z = 6 then (if x = 1 then 12 else 16) else 8
    flags := if x = 0 then 0xF0 else if x = 1 then 0xE0 else 0x00 }

/-- `OPROM_REF`, the prefixed table: 256 positions, all filled (R272). -/
def refCbRows : List (Byte × OpEntry) :=
  (List.range 256).map fun op => (BitVec.ofNat 8 op, cbEntry op)

/-- The reference instantiation of every parameter, with `LIC_MIN` (R263), `BUF_RW` true, `GCHK_RANGE`
WHOLE (the default of R7) and `UNK_MNEM` its default text (R231). -/
def referenceParams : Params :=
  { bufRw := true, gchkRange := .whole, logoRef := refLogo, oldLic := [], newLic := [], ctypeRows := refCtypeRows,
    destRows := refDestRows, stdRows := refStdRows, cbRows := refCbRows, nopCycles := 4, nopFlags := 0x00,
    jpCycles := 16, jpFlags := 0x00, unkMnem := text "unknown" }

/-- `OPROM_MIN` and `LIC_MIN` with the pinned cartridge types only and no destination row: only what the
document says, but for the logo bytes, which it does not give (R221, R263, R175). -/
def minimalParams : Params :=
  { referenceParams with ctypeRows := [], destRows := [], stdRows := [], cbRows := [] }

end Sys2Proof.Machine
end

