-- ==== Sys2Proof/WellFormed.lean ====
section
/-! DEFINITION. Well-formed instructions: what a request frame or the target stream can carry. The length
fields of the frame layout are 32 bits (log entry 4); a target-stream class agrees with the opcode tables
it was read under (R84 to R87, R231, R238). -/

namespace Sys2Proof

/-- A byte sequence whose length fits the 32-bit length field of a frame. -/
def fitsFrame (l : List Byte) : Bool := l.length < 4294967296

/-- The operand bytes that the entry of a prefixed opcode does not use are 0 (R86, formats CB0 to CB2). -/
def cbOperandsFit (n : Nat) (l h : Byte) : Bool :=
  (1 ≤ n || l == 0) && (2 ≤ n || h == 0)

/-- The number of operand bytes after a prefixed opcode; none when the table misses (R238). -/
def cbOperandCount (p : Params) (o : Byte) : Nat :=
  match Machine.opromCb p o with
  | some e => Machine.opBytes e.nops
  | none => 0

/-- Well-formedness under the parameters `p`. -/
def Instr.wf (p : Params) : Instr → Bool
  | .bufLoad image name => fitsFrame image && fitsFrame name
  | .bufPutr _ data => fitsFrame data
  | .prefixCb o l h => cbOperandsFit (cbOperandCount p o) l h
  | .unknown x => x != 0xCB && (Machine.opromStd p x).isNone
  | .bufGetb _ | .bufGetr _ => true
  | .hdrEntry | .hdrLogo | .hdrTitle | .hdrManuf | .hdrCgb | .hdrNewlic | .hdrSgb | .hdrCtype => true
  | .hdrRomsz | .hdrRamsz | .hdrDest | .hdrOldlic | .hdrVer | .hdrHchk | .hdrGchk => true
  | .hdrLicensee | .hdrAll => true
  | .chkHdr | .chkGlb | .valLogo | .valRam | .valHchk | .valGchk | .valAll => true
  | .disStart _ | .disStep | .disRun _ | .epdClear | .epdInsert | .epdSorted => true
  | .nop | .jpA16 _ => true

end Sys2Proof
end

