-- ==== Sys2Proof/Decode.lean ====
section
/-! DEFINITION. The decoders, total on any bytes and rejecting by name, and the encoders after them. A request
frame is an operation code of R82 followed by its arguments in the order of that table; how an argument
is laid out in bytes is the model's choice (R81, log entry 4). The target stream is that of R84 to R87. -/

namespace Sys2Proof

open Sys2Proof.Machine

/-- Why bytes are no instruction. -/
inductive DecodeError where
  /-- No byte at all. -/
  | empty
  /-- The operation code is not in the table of R82 (R99). -/
  | undefinedOp (op : Byte)
  /-- The bytes end inside an argument or an instruction. -/
  | truncated
  /-- A range bound with a tag that names no form of R83. -/
  | badBound (tag : Byte)
  /-- A mode argument other than 0 and 1. -/
  | badMode (b : Byte)
  /-- Bytes after the last argument of a request. -/
  | trailing
  /-- A standard opcode with an entry that is not a row of the opcode table: content of `OPROM_STD` (R221). -/
  | otherEntry (b : Byte)
  deriving DecidableEq, Repr

/-! ## Arguments of a request frame -/

/-- A 16-bit argument, low byte first. -/
def takeHalf : List Byte → Except DecodeError (Half × List Byte)
  | lo :: hi :: rest => .ok (hi ++ lo, rest)
  | _ => .error .truncated

/-- A byte-sequence argument: its length in four bytes, low byte first, then its bytes. -/
def takeBlock : List Byte → Except DecodeError (List Byte × List Byte)
  | a :: b :: c :: d :: rest =>
    let n := a.toNat + 256 * (b.toNat + 256 * (c.toNat + 256 * d.toNat))
    if n ≤ rest.length then .ok (rest.take n, rest.drop n) else .error .truncated
  | _ => .error .truncated

/-- A start bound: tag 0 for unbounded, 1 and an index for `from(s)` (R83). -/
def takeStart : List Byte → Except DecodeError (StartBound × List Byte)
  | [] => .error .truncated
  | tag :: rest =>
    if tag = 0 then .ok (.unbounded, rest)
    else if tag = 1 then do
      let (s, rest) ← takeHalf rest
      return (.fromIdx s, rest)
    else .error (.badBound tag)

/-- An end bound: tag 0 for unbounded, 1 and 2 with an index for `to_excl(e)` and `to_incl(e)` (R83). -/
def takeEnd : List Byte → Except DecodeError (EndBound × List Byte)
  | [] => .error .truncated
  | tag :: rest =>
    if tag = 0 then .ok (.unbounded, rest)
    else if tag = 1 then do
      let (e, rest) ← takeHalf rest
      return (.toExcl e, rest)
    else if tag = 2 then do
      let (e, rest) ← takeHalf rest
      return (.toIncl e, rest)
    else .error (.badBound tag)

/-- A range argument: its start bound, then its end bound (R83). -/
def takeRange (bs : List Byte) : Except DecodeError (RangeArg × List Byte) := do
  let (s, bs) ← takeStart bs
  let (e, bs) ← takeEnd bs
  return ({ start := s, stop := e }, bs)

/-- A mode argument: 0 strict, 1 permissive (R30). -/
def takeMode : List Byte → Except DecodeError (Mode × List Byte)
  | [] => .error .truncated
  | b :: rest =>
    if b = 0 then .ok (.strict, rest) else if b = 1 then .ok (.permissive, rest) else .error (.badMode b)

/-! ## The request decoder -/

/-- The request that starts with the operation code `op`, its arguments in `args` (R82). -/
def decodeOp (op : Byte) (args : List Byte) : Except DecodeError (Instr × List Byte) :=
  match op.toNat with
  | 0x00 => do
    let (image, args) ← takeBlock args
    let (name, args) ← takeBlock args
    return (.bufLoad image name, args)
  | 0x01 => do
    let (index, args) ← takeHalf args
    return (.bufGetb index, args)
  | 0x02 => do
    let (range, args) ← takeRange args
    return (.bufGetr range, args)
  | 0x03 => do
    let (range, args) ← takeRange args
    let (data, args) ← takeBlock args
    return (.bufPutr range data, args)
  | 0x10 => .ok (.hdrEntry, args)
  | 0x11 => .ok (.hdrLogo, args)
  | 0x12 => .ok (.hdrTitle, args)
  | 0x13 => .ok (.hdrManuf, args)
  | 0x14 => .ok (.hdrCgb, args)
  | 0x15 => .ok (.hdrNewlic, args)
  | 0x16 => .ok (.hdrSgb, args)
  | 0x17 => .ok (.hdrCtype, args)
  | 0x18 => .ok (.hdrRomsz, args)
  | 0x19 => .ok (.hdrRamsz, args)
  | 0x1A => .ok (.hdrDest, args)
  | 0x1B => .ok (.hdrOldlic, args)
  | 0x1C => .ok (.hdrVer, args)
  | 0x1D => .ok (.hdrHchk, args)
  | 0x1E => .ok (.hdrGchk, args)
  | 0x1F => .ok (.hdrLicensee, args)
  | 0x20 => .ok (.hdrAll, args)
  | 0x30 => .ok (.chkHdr, args)
  | 0x31 => .ok (.chkGlb, args)
  | 0x38 => .ok (.valLogo, args)
  | 0x39 => .ok (.valRam, args)
  | 0x3A => .ok (.valHchk, args)
  | 0x3B => .ok (.valGchk, args)
  | 0x3C => .ok (.valAll, args)
  | 0x40 => do
    let (mode, args) ← takeMode args
    return (.disStart mode, args)
  | 0x41 => .ok (.disStep, args)
  | 0x42 => do
    let (mode, args) ← takeMode args
    return (.disRun mode, args)
  | 0x50 => .ok (.epdClear, args)
  | 0x51 => .ok (.epdInsert, args)
  | 0x52 => .ok (.epdSorted, args)
  | _ => .error (.undefinedOp op)

/-- The request at the front of `bs`, with the bytes after it. -/
def decodeRequest : List Byte → Except DecodeError (Instr × List Byte)
  | [] => .error .empty
  | op :: args => decodeOp op args

/-- The request a frame holds: the whole frame and nothing after it. -/
def decodeFrame (frame : List Byte) : Except DecodeError Instr :=
  match decodeRequest frame with
  | .ok (i, []) => .ok i
  | .ok (_, _ :: _) => .error .trailing
  | .error e => .error e

/-! ## The decoder of the target stream -/

/-- The prefixed opcode `o` with `n` operand bytes from `bs` (R86, formats CB0 to CB2). -/
def decodeCb (o : Byte) (n : Nat) (bs : List Byte) : Except DecodeError (Instr × List Byte) :=
  match n, bs with
  | 0, rest => .ok (.prefixCb o 0 0, rest)
  | 1, l :: rest => .ok (.prefixCb o l 0, rest)
  | _ + 2, l :: h :: rest => .ok (.prefixCb o l h, rest)
  | _, _ => .error .truncated

/-- The standard opcode `b`, its operand bytes in `bs` (R87, R236, R237, R231). -/
def decodeStd (p : Params) (b : Byte) (bs : List Byte) : Except DecodeError (Instr × List Byte) :=
  match opromStd p b with
  | none => .ok (.unknown b, bs)
  | some _ =>
    if b = 0x00 then .ok (.nop, bs)
    else if b = 0xC3 then do
      let (a, bs) ← takeHalf bs
      return (.jpA16 a, bs)
    else .error (.otherEntry b)

/-- The target-stream class at the front of `bs`, under the opcode tables of `p`. The test for the escape
byte 0xCB comes before any table lookup (R87). -/
def decodeTarget (p : Params) : List Byte → Except DecodeError (Instr × List Byte)
  | [] => .error .empty
  | b :: bs =>
    if b = 0xCB then
      match bs with
      | [] => .error .truncated
      | o :: bs => decodeCb o (cbOperandCount p o) bs
    else decodeStd p b bs

/-! ## The encoders -/

/-- A length in four bytes, low byte first. -/
def lengthBytes (n : Nat) : List Byte :=
  [BitVec.ofNat 8 n, BitVec.ofNat 8 (n / 256), BitVec.ofNat 8 (n / 65536), BitVec.ofNat 8 (n / 16777216)]

/-- A byte-sequence argument. -/
def blockBytes (l : List Byte) : List Byte := lengthBytes l.length ++ l

/-- A range argument (R83). -/
def rangeBytes (r : RangeArg) : List Byte :=
  (match r.start with
   | .unbounded => [0]
   | .fromIdx s => 1 :: leBytes s) ++
  (match r.stop with
   | .unbounded => [0]
   | .toExcl e => 1 :: leBytes e
   | .toIncl e => 2 :: leBytes e)

/-- A mode argument (R30). -/
def modeByte : Mode → Byte
  | .strict => 0
  | .permissive => 1

/-- The bytes of an instruction: a request frame (R82), or target-stream bytes under the opcode tables of
`p` (R86). -/
def encode (p : Params) : Instr → List Byte
  | .bufLoad image name => 0x00 :: (blockBytes image ++ blockBytes name)
  | .bufGetb index => 0x01 :: leBytes index
  | .bufGetr range => 0x02 :: rangeBytes range
  | .bufPutr range data => 0x03 :: (rangeBytes range ++ blockBytes data)
  | .hdrEntry => [0x10]
  | .hdrLogo => [0x11]
  | .hdrTitle => [0x12]
  | .hdrManuf => [0x13]
  | .hdrCgb => [0x14]
  | .hdrNewlic => [0x15]
  | .hdrSgb => [0x16]
  | .hdrCtype => [0x17]
  | .hdrRomsz => [0x18]
  | .hdrRamsz => [0x19]
  | .hdrDest => [0x1A]
  | .hdrOldlic => [0x1B]
  | .hdrVer => [0x1C]
  | .hdrHchk => [0x1D]
  | .hdrGchk => [0x1E]
  | .hdrLicensee => [0x1F]
  | .hdrAll => [0x20]
  | .chkHdr => [0x30]
  | .chkGlb => [0x31]
  | .valLogo => [0x38]
  | .valRam => [0x39]
  | .valHchk => [0x3A]
  | .valGchk => [0x3B]
  | .valAll => [0x3C]
  | .disStart mode => [0x40, modeByte mode]
  | .disStep => [0x41]
  | .disRun mode => [0x42, modeByte mode]
  | .epdClear => [0x50]
  | .epdInsert => [0x51]
  | .epdSorted => [0x52]
  | .nop => [0x00]
  | .jpA16 a => 0xC3 :: leBytes a
  | .prefixCb o l h => 0xCB :: o :: [l, h].take (cbOperandCount p o)
  | .unknown x => [x]

/-! ## The opcode table's words -/

/-- The bytes of a table word: bit 0 is the least significant bit of the first byte, and every bit above
the table's is 0. Sixteen bytes of zeros are more than the longest instruction needs. -/
def tableBytes (nbits w : Nat) : List Byte :=
  ((List.range ((nbits + 7) / 8)).map fun k => BitVec.ofNat 8 (w / 256 ^ k)) ++ List.replicate 16 0

/-- The instruction of a table word and the bytes after it: a request where the first byte is an operation
code of R82, else a target-stream class under the reference tables. The table lists `BUF.LOAD` and `NOP`
under the same word 0x00, in two different spaces; the request is the one decoded here (log entry 5). -/
def decodeTableBytes (bs : List Byte) : Option (Instr × List Byte) :=
  match decodeRequest bs with
  | .ok r => some r
  | .error _ => (decodeTarget referenceParams bs).toOption

/-- The instruction the decoders read from a word of the opcode table. -/
def decodeTableWord (nbits w : Nat) : Option Instr := (decodeTableBytes (tableBytes nbits w)).map Prod.fst

end Sys2Proof
end

