-- ==== Sys2Proof/Machine/State.lean ====
section
/-! DEFINITION. The record types of R93 to R96, R103, R210, R280 and R281, the responses of R81, the state
of the block (R20 to R37) as plain data, and its reset value (R310). -/

namespace Sys2Proof.Machine

/-! ## Errors and warnings -/

/-- The sub-kinds of a BoundsError (R281). -/
inductive BoundsSub where
  | index
  | start
  | stop
  | inverted
  | lengthMismatch
  deriving DecidableEq, Repr

/-- The sub-kinds of a Refused error (R281). -/
inductive RefusedSub where
  | undefinedOp
  | notWritable
  | notRunning
  | loadTooLong
  deriving DecidableEq, Repr

/-- The kinds 1 to 7 of R280, the two with sub-kinds carrying theirs (R281). -/
inductive ErrKind where
  | bounds (sub : BoundsSub)
  | unknownTableCode
  | degradedTableCode
  | invalidText
  | checksumMismatch
  | unknownOpcode
  | refused (sub : RefusedSub)
  deriving DecidableEq, Repr

/-- The `field` of an error record (R95). -/
inductive Field where
  | none
  | entryPoint
  | logo
  | title
  | manufacturer
  | cgbFlag
  | newLicensee
  | sgbFlag
  | cartridgeType
  | romSize
  | ramSize
  | destination
  | oldLicensee
  | version
  | headerChecksum
  | globalChecksum
  | licensee
  | opcode
  | prefixedOpcode
  | operand
  | rangeArgument
  deriving DecidableEq, Repr

/-- The record of an error or a warning (R95). -/
structure ErrRec where
  kind     : ErrKind
  field    : Field
  code     : Half
  index    : Wide
  start    : Wide
  len      : Wide
  prefixed : Bool
  deriving DecidableEq, Repr

/-! ## Records of the disassembler -/

/-- The Instruction record (R93). `length` is 1 to 4 and `nops` 0 to 2. -/
structure InstrRec where
  opcode   : Byte
  prefixed : Bool
  unknown  : Bool
  mnemonic : Text
  length   : Nat
  nops     : Nat
  operand  : Half
  cycles   : Byte
  flags    : Byte
  deriving DecidableEq, Repr

/-- The InstructionPosition record (R94). -/
structure InstrPos where
  offset : Nat
  instr  : InstrRec
  deriving DecidableEq, Repr

/-- What a `DIS.STEP` that does not fail says: a record was emitted, or the run is over (R226). -/
inductive StepEnd where
  | emitted
  | done
  deriving DecidableEq, Repr

/-- `STATUS` (R31). -/
inductive Status where
  | idle
  | running
  | done
  | error
  deriving DecidableEq, Repr

/-! ## Results of the header operations -/

/-- CgbFlag (R103). -/
inductive CgbFlag where
  | none
  | compat
  | cgbOnly
  | pgbMode
  deriving DecidableEq, Repr

/-- Destination (R103). -/
inductive Destination where
  | japan
  | overseas
  | unknown
  deriving DecidableEq, Repr

/-- LicenseeSource (R103). -/
inductive LicSource where
  | old
  | new
  deriving DecidableEq, Repr

/-- The Licensee record (R103). -/
structure Licensee where
  source  : LicSource
  oldCode : Byte
  newCode : Half
  found   : Bool
  name    : Text
  deriving DecidableEq, Repr

/-- A result: `Ok(value, diags)` or `Err(error)` (R13). -/
inductive Reply (α : Type) where
  | ok (value : α) (diags : List ErrRec)
  | err (e : ErrRec)
  deriving DecidableEq, Repr

/-- The Cartridge record of `HDR.ALL`: one slot per operation, holding that operation's own result, and
the bit `usable` (R159). -/
structure Cartridge where
  entry    : Reply (List Byte)
  logo     : Reply (List Byte)
  title    : Reply Text
  manuf    : Reply (Option (List Byte))
  cgb      : Reply CgbFlag
  newlic   : Reply (List Byte)
  sgb      : Reply Bool
  ctype    : Reply CartridgeType
  romsz    : Reply (BitVec 24)
  ramsz    : Reply (BitVec 18)
  dest     : Reply Destination
  oldlic   : Reply Byte
  ver      : Reply Byte
  hchk     : Reply Byte
  gchk     : Reply Half
  licensee : Reply Licensee
  usable   : Bool
  deriving DecidableEq, Repr

/-! ## Results of the validator -/

/-- Which check a CheckResult reports (R95). -/
inductive Check where
  | logo
  | ram
  | headerChecksum
  | globalChecksum
  deriving DecidableEq, Repr

/-- The reason codes (R210). -/
inductive Reason where
  | none
  | logoMismatch
  | ramFlagWithoutSize
  | ramSizeWithoutFlag
  | checksumMismatch
  | undecodable
  deriving DecidableEq, Repr

/-- CheckResult (R95). -/
structure CheckResult where
  check    : Check
  pass     : Bool
  reason   : Reason
  computed : Half
  stored   : Half
  cause    : Option ErrRec
  deriving DecidableEq, Repr

/-- The report of `VAL.ALL` (R209). -/
structure Report where
  logo : CheckResult
  ram  : CheckResult
  hchk : CheckResult
  gchk : CheckResult
  pass : Bool
  deriving DecidableEq, Repr

/-! ## Responses -/

/-- The Ok value of a response, by the last-but-one column of R82. -/
inductive Value where
  | unit
  | byte (b : Byte)
  | half (h : Half)
  | bit (b : Bool)
  | bytes (l : List Byte)
  | bytesOption (o : Option (List Byte))
  | cgb (f : CgbFlag)
  | ctype (t : CartridgeType)
  | romBytes (n : BitVec 24)
  | ramBytes (n : BitVec 18)
  | dest (d : Destination)
  | licensee (r : Licensee)
  | cartridge (c : Cartridge)
  | check (c : CheckResult)
  | report (r : Report)
  | stepEnd (e : StepEnd)
  | listing (l : List InstrPos)
  | keys (l : List (List Byte))
  deriving DecidableEq, Repr

/-- The response to a request (R81). -/
abbrev Response := Reply Value

/-! ## The state -/

/-- The byte buffer as cells of an index and a byte. In the canonical form the indices are 0, 1, … in
order, one cell for each index below `LEN`, so an index with no cell holds no byte (R21, R51). -/
abbrev Memory := List Host.Cell

/-- The state of the block (R20 to R37). `par` are the parameters, constants that no operation writes (R6,
R7, R36, log entry 1). `inbox` and `resp` are the model's own: the requests the host has issued and the
block has not served, oldest first, and the response to the last request served (R63, R81, log entry 3).
`LEN` is the length of `mem` (R21) and no field of its own. -/
structure State where
  /-- The parameters of R6 and R7. -/
  par    : Params
  /-- `BUF`, and with its length `LEN` (R21). -/
  mem    : Memory
  /-- `NAME` (R22). -/
  name   : Text
  /-- `I` (R24). -/
  i      : Nat
  /-- `MODE` (R30). -/
  mode   : Mode
  /-- `STATUS` (R31). -/
  status : Status
  /-- `ERR` (R32). -/
  err    : Option ErrRec
  /-- `OUT` (R33). -/
  out    : List InstrPos
  /-- `DWARN` (R33). -/
  dwarn  : List ErrRec
  /-- `SET`, the deduplication set, its keys in ascending order (R35). -/
  keys   : List (List Byte)
  /-- The requests issued and not yet served, as frames of bytes (log entry 3). -/
  inbox  : List (List Byte)
  /-- The response to the last request served (log entry 3). -/
  resp   : Option Response
  deriving DecidableEq, Repr

/-- The reset state under the parameters `p`: everything empty or zero, strict, IDLE (R310). -/
def State.resetWith (p : Params) : State :=
  { par := p, mem := [], name := [], i := 0, mode := .strict, status := .idle, err := none, out := [], dwarn := [],
    keys := [], inbox := [], resp := none }

/-- The reset state (R310) under the reference parameters (log entry 2). -/
def State.reset : State := State.resetWith referenceParams

/-- Why the machine stops with a fault. -/
inductive Fault where
  /-- Raised by `disRun` if a run has not ended after `LEN + 1` steps. No run does that (R232), so no state
  of the model raises it. Safe. -/
  | runDidNotEnd
  deriving DecidableEq, Repr

/-- Why the model gives no meaning. -/
inductive Refusal where
  /-- Raised by `exec` for an instruction that has no meaning in the model yet. Safe. -/
  | notModelled (mnemonic : String)
  /-- Raised by `step` for a frame that holds no request: empty, cut short, with a tag or mode byte that
  names nothing, or with bytes left over. The layout of a frame is the model's own (log entry 4), so no
  host request of the spec has this form. Safe. -/
  | malformedRequest
  deriving DecidableEq, Repr

end Sys2Proof.Machine
end

