-- ==== Sys2Proof/Machine/Flags.lean ====
section
/-! DEFINITION. The CpuFlags byte (R92), the status registers SR0 to SR5 that the host reads (R29), and the
numeric codes of the kinds, sub-kinds, fields, reasons and enumerations (R95, R103, R210, R280, R281). -/

namespace Sys2Proof.Machine

/-! ## CpuFlags (R92) -/

/-- Conversion from a raw byte: the low nibble is masked off (R92). -/
def cpuFlags (b : Byte) : Byte := b &&& 0xF0

/-- The four flags of a CpuFlags byte, from bit 7 down (R92). -/
inductive CpuFlag where
  | zero
  | subtract
  | halfCarry
  | carry
  deriving DecidableEq, Repr

/-- The bit of a flag (R92; the positions are the spec's reading, D24). -/
def cpuFlagBit : CpuFlag → Nat
  | .zero => 7
  | .subtract => 6
  | .halfCarry => 5
  | .carry => 4

/-- Is the flag in the set? -/
def hasCpuFlag (b : Byte) (f : CpuFlag) : Bool := b.getLsbD (cpuFlagBit f)

/-! ## The buffer as bytes -/

/-- The bytes of `BUF` in index order. -/
def State.buf (s : State) : List Byte := s.mem.map Prod.snd

/-- `LEN` (R21). -/
def State.len (s : State) : Nat := s.mem.length

/-! ## Status registers (R29) -/

/-- The code of `MODE` (R30). -/
def modeCode : Mode → BitVec 1
  | .strict => 0
  | .permissive => 1

/-- The code of `STATUS` (R31). -/
def statusCode : Status → BitVec 2
  | .idle => 0
  | .running => 1
  | .done => 2
  | .error => 3

/-- SR0: `LEN`, 17 bits. -/
def State.sr0 (s : State) : Wide := BitVec.ofNat 17 s.len

/-- SR1: `I`, 17 bits. -/
def State.sr1 (s : State) : Wide := BitVec.ofNat 17 s.i

/-- SR2: `CTL`, bit 0 `MODE` and bits [2:1] `STATUS`. -/
def State.sr2 (s : State) : BitVec 3 := statusCode s.status ++ modeCode s.mode

/-- SR3: `ERR`, the record with its valid bit. -/
def State.sr3 (s : State) : Option ErrRec := s.err

/-- SR4: the number of records in `OUT`, 17 bits. -/
def State.sr4 (s : State) : Wide := BitVec.ofNat 17 s.out.length

/-- SR5: the number of keys in `SET`. -/
def State.sr5 (s : State) : Nat := s.keys.length

/-! ## Numeric codes -/

/-- The 3-bit `kind` (R280). -/
def kindCode : ErrKind → BitVec 3
  | .bounds _ => 1
  | .unknownTableCode => 2
  | .degradedTableCode => 3
  | .invalidText => 4
  | .checksumMismatch => 5
  | .unknownOpcode => 6
  | .refused _ => 7

/-- The 3-bit `sub` (R281); 0 for the kinds without sub-kinds. -/
def subCode : ErrKind → BitVec 3
  | .bounds .index => 0
  | .bounds .start => 1
  | .bounds .stop => 2
  | .bounds .inverted => 3
  | .bounds .lengthMismatch => 4
  | .refused .undefinedOp => 0
  | .refused .notWritable => 1
  | .refused .notRunning => 2
  | .refused .loadTooLong => 3
  | .unknownTableCode | .degradedTableCode | .invalidText | .checksumMismatch | .unknownOpcode => 0

/-- The 5-bit `field` (R95). -/
def fieldCode : Field → BitVec 5
  | .none => 0
  | .entryPoint => 1
  | .logo => 2
  | .title => 3
  | .manufacturer => 4
  | .cgbFlag => 5
  | .newLicensee => 6
  | .sgbFlag => 7
  | .cartridgeType => 8
  | .romSize => 9
  | .ramSize => 10
  | .destination => 11
  | .oldLicensee => 12
  | .version => 13
  | .headerChecksum => 14
  | .globalChecksum => 15
  | .licensee => 16
  | .opcode => 17
  | .prefixedOpcode => 18
  | .operand => 19
  | .rangeArgument => 20

/-- The 2-bit `check` (R95). -/
def checkCode : Check → BitVec 2
  | .logo => 0
  | .ram => 1
  | .headerChecksum => 2
  | .globalChecksum => 3

/-- The 3-bit `reason` (R210). -/
def reasonCode : Reason → BitVec 3
  | .none => 0
  | .logoMismatch => 1
  | .ramFlagWithoutSize => 2
  | .ramSizeWithoutFlag => 3
  | .checksumMismatch => 4
  | .undecodable => 5

/-- CgbFlag (R103). -/
def cgbCode : CgbFlag → Nat
  | .none => 0
  | .compat => 1
  | .cgbOnly => 2
  | .pgbMode => 3

/-- Destination (R103). -/
def destCode : Destination → Nat
  | .japan => 0
  | .overseas => 1
  | .unknown => 2

/-- LicenseeSource (R103). -/
def sourceCode : LicSource → Nat
  | .old => 0
  | .new => 1

end Sys2Proof.Machine
end

