-- ==== Sys2Proof/Machine/Ops.lean ====
section
/-! DEFINITION. The shared operations: results (R13), the error records (R95), reporting an error (R292,
R293), the buffer and its bounds checks (R51 to R53, R122), the request queue, and the disassembler's
shared transitions. -/

namespace Sys2Proof.Machine

/-! ## Results (R13) -/

/-- Change the value of a result. -/
def Reply.map {α β : Type} (r : Reply α) (f : α → β) : Reply β :=
  match r with
  | .ok v d => .ok (f v) d
  | .err e => .err e

/-- Go on with the value of a result; an error ends the operation, warnings are kept in order (R12, R13). -/
def Reply.bind {α β : Type} (r : Reply α) (f : α → Reply β) : Reply β :=
  match r with
  | .err e => .err e
  | .ok v d =>
    match f v with
    | .ok w d' => .ok w (d ++ d')
    | .err e => .err e

/-- What a result adds to the `diags` of `HDR.ALL`: the warnings of one that succeeded, the error of one
that failed (R159). -/
def Reply.notes {α : Type} (r : Reply α) : List ErrRec :=
  match r with
  | .ok _ d => d
  | .err e => [e]

/-- Is the result `Ok`? -/
def Reply.isOk {α : Type} (r : Reply α) : Bool :=
  match r with
  | .ok _ _ => true
  | .err _ => false

/-! ## Error records (R95) -/

/-- A natural number in a 17-bit index field. -/
def wide (n : Nat) : Wide := BitVec.ofNat 17 n

/-- A record with `len` and otherwise zero. `len` is "`LEN` when raised" in a record of every kind; what a
rule's list of fields leaves out is 0 (R95, log entry 7). -/
def blankRec (kind : ErrKind) (len : Nat) : ErrRec :=
  { kind := kind, field := .none, code := 0, index := 0, start := 0, len := wide len, prefixed := false }

/-- A BoundsError (R282). -/
def boundsErr (sub : BoundsSub) (field : Field) (index len : Nat) : ErrRec :=
  { blankRec (.bounds sub) len with field := field, index := wide index }

/-- A table miss at a fixed header offset: UnknownTableCode or DegradedTableCode (R283, R284). -/
def tableMiss (kind : ErrKind) (field : Field) (code : Half) (index len : Nat) : ErrRec :=
  { blankRec kind len with field := field, code := code, index := wide index }

/-- A Refused error (R288). -/
def refusedErr (sub : RefusedSub) (len : Nat) : ErrRec := blankRec (.refused sub) len

/-- The error of an operand or second opcode byte carries the start of its instruction (R226, R229). -/
def ErrRec.inInstr (e : ErrRec) (start : Nat) (prefixed : Bool) : ErrRec :=
  { e with start := wide start, prefixed := prefixed }

/-! ## Responding

Reporting an error is not a transfer of control: the error is the response to the request, and nothing
else changes (R292, R293). There is no return from it (R294). The one operation whose error changes more
is a failing step (`failRun`). -/

/-- The response to the request being served. -/
def State.answer (s : State) (r : Response) : State := { s with resp := some r }

/-- End a request with the response `r`. -/
def respond (r : Response) (s : State) : Host.Outcome State Fault Refusal := .next (s.answer r)

/-- An operation code outside the table of R82 is refused and changes nothing (R99). -/
def refuseOp (op : Byte) (s : State) : Host.Outcome State Fault Refusal :=
  respond (.err { refusedErr .undefinedOp s.len with code := op.setWidth 16 }) s

/-! ## The buffer -/

/-- The byte at an index; an index with no cell holds none (R21). -/
def Memory.read (m : Memory) (a : Nat) : Option Byte := (m[a]?).map Prod.snd

/-- The canonical form: the indices are 0, 1, …, `LEN - 1`, and `LEN` is at most 65536 (R21, R51). -/
abbrev Memory.wf (m : Memory) : Prop := m.map Prod.fst = List.range m.length ∧ m.length ≤ 65536

/-- Cells for the bytes `l` at the indices from `a` on. -/
def cellsFrom (a : Nat) : List Byte → Memory
  | [] => []
  | b :: l => (a, b) :: cellsFrom (a + 1) l

/-- The buffer that holds an image (R120). -/
def Memory.ofImage (image : List Byte) : Memory := cellsFrom 0 image

/-- `MemWrite(a, n, data)` with `n = len(data)`: the cells from `a` on are replaced (R12, R124). -/
def Memory.write (m : Memory) (a : Nat) (data : List Byte) : Memory :=
  m.take a ++ cellsFrom a data ++ m.drop (a + data.length)

/-- The bytes at `a` to `a + n - 1`. -/
def slice (buf : List Byte) (a n : Nat) : List Byte := (buf.drop a).take n

/-- `MemRead(a, 1)[0]`: one byte, or the BoundsError with sub-kind INDEX (R52). -/
def memByte (buf : List Byte) (a : Nat) (field : Field) : Reply Byte :=
  match buf[a]? with
  | some b => .ok b []
  | none => .err (boundsErr .index field a buf.length)

/-- `MemRead(a, n)` for `n ≥ 2`, or for any `n` with the sub-kind INDEX in place of START when `n` is 1
(R52). The start test comes first. -/
def memRead (buf : List Byte) (a n : Nat) (field : Field) : Reply (List Byte) :=
  if buf.length ≤ a then .err (boundsErr (if n = 1 then .index else .start) field a buf.length)
  else if buf.length < a + n then .err (boundsErr .stop field (a + n) buf.length)
  else .ok (slice buf a n) []

/-- The range check of R122: START, then END, then INVERTED. -/
def checkRange (len : Nat) (r : RangeArg) : Reply (Nat × Nat) :=
  let s := resolveStart r.start
  let e := resolveEnd len r.stop
  if len ≤ s then .err (boundsErr .start .rangeArgument s len)
  else if len < e then .err (boundsErr .stop .rangeArgument e len)
  else if e < s then .err (boundsErr .inverted .rangeArgument e len)
  else .ok (s, e) []

/-! ## The disassembler's transitions -/

/-- `DIS.START`'s effect: a fresh run from index 0 (R224). -/
def startRun (m : Mode) (s : State) : State :=
  { s with i := 0, mode := m, status := .running, err := none, out := [], dwarn := [] }

/-- `fail e`: the run ends in ERROR; `I`, `OUT` and `DWARN` keep their values (R226, R235, R293). -/
def failRun (e : ErrRec) (s : State) : State × Reply StepEnd :=
  ({ s with status := .error, err := some e }, .err e)

/-- `emit`, and the advance of `I` by the record's length (R226, R25). -/
def emit (r : InstrRec) (s : State) : State :=
  { s with out := s.out ++ [{ offset := s.i, instr := r }], i := s.i + r.length }

/-- The record of an instruction with a table entry (R93, R226). -/
def entryRec (prefixed : Bool) (op : Byte) (e : OpEntry) (v : Half) : InstrRec :=
  { opcode := op, prefixed := prefixed, unknown := false, mnemonic := e.mnemonic,
    length := 1 + prefixed.toNat + opBytes e.nops, nops := opBytes e.nops, operand := v, cycles := e.cycles,
    flags := cpuFlags e.flags }

/-- `SENTINEL(b)` (R231). -/
def sentinel (p : Params) (b : Byte) : InstrRec :=
  { opcode := b, prefixed := false, unknown := true, mnemonic := p.unkMnem, length := 1, nops := 0, operand := 0,
    cycles := 0, flags := 0 }

/-- UnknownOpcode for the opcode byte `op`, at `I` or, after the escape byte, at `I + 1` (R226, R230). -/
def unknownOpcodeErr (prefixed : Bool) (op : Byte) (s : State) : ErrRec :=
  { blankRec .unknownOpcode s.len with
    field := if prefixed then .prefixedOpcode else .opcode
    code := op.setWidth 16
    index := wide (s.i + prefixed.toNat)
    start := wide s.i
    prefixed := prefixed }

/-- A table miss: strict mode fails the run (R230); permissive mode emits the sentinel for the byte `b0` at
`I` and keeps the error as a warning (R231). -/
def missOpcode (prefixed : Bool) (op b0 : Byte) (s : State) : State × Reply StepEnd :=
  let e := unknownOpcodeErr prefixed op s
  match s.mode with
  | .strict => failRun e s
  | .permissive => ({ emit (sentinel s.par b0) s with dwarn := s.dwarn ++ [e] }, .ok .emitted [])

/-- The operand bytes an entry declares, after the opcode byte at `pos`: none for 0, else `MemRead` (R226). -/
def readOperand (buf : List Byte) (pos n : Nat) : Reply (List Byte) :=
  if n = 0 then .ok [] [] else memRead buf (pos + 1) n .operand

/-- An opcode with a table entry: the operand bytes are read, or the run fails for want of them (R229), and
the record is emitted with the operand value `value` of those bytes (R226). -/
def hitOpcode (prefixed : Bool) (op : Byte) (e : OpEntry) (value : List Byte → Half) (s : State) :
    State × Reply StepEnd :=
  match readOperand s.buf (s.i + prefixed.toNat) (opBytes e.nops) with
  | .err err => failRun (err.inInstr s.i prefixed) s
  | .ok bytes _ => (emit (entryRec prefixed op e (value bytes)) s, .ok .emitted [])

/-- The guard of every step: refused outside a run (R232), and over when `I = LEN` (R232). -/
def onRunning (s : State) (act : State → State × Reply StepEnd) : State × Reply StepEnd :=
  if s.status ≠ .running then (s, .err (refusedErr .notRunning s.len))
  else if s.i = s.len then ({ s with status := .done }, .ok .done [])
  else act s

/-- The response to a step. -/
def respondStep (r : State × Reply StepEnd) : Host.Outcome State Fault Refusal :=
  respond (r.2.map Value.stepEnd) r.1

/-! ## The request queue (log entry 3) -/

/-- What the block finds when it looks for the next request. -/
inductive Fetch where
  /-- No request is waiting. -/
  | idle
  /-- The next request and the state without its frame. -/
  | request (i : Instr) (s : State)
  /-- An operation code outside the table of R82. -/
  | undefinedOp (op : Byte) (s : State)
  /-- A frame that is no request. -/
  | malformed
  deriving DecidableEq, Repr

/-- Take the oldest waiting request (R63). -/
def fetch (s : State) : Fetch :=
  match s.inbox with
  | [] => .idle
  | frame :: rest =>
    match decodeFrame frame with
    | .ok i => .request i { s with inbox := rest }
    | .error (.undefinedOp op) => .undefinedOp op { s with inbox := rest }
    | .error _ => .malformed

/-- Put a request at the head of the queue. -/
def withRequest (frame : List Byte) (s : State) : State := { s with inbox := frame :: s.inbox }

/-- Place target-stream bytes: the buffer holds exactly them, a run is at its start, and a `DIS.STEP` is
the next request. -/
def withTarget (bytes : List Byte) (m : Mode) (s : State) : State :=
  withRequest [0x41] (startRun m { s with mem := Memory.ofImage bytes })

/-- The state whose next step runs the instruction of a table word (log entry 5). `UNKNOWN` exists in
permissive mode only (R231). -/
def placeWord (nbits w : Nat) (s : State) : State :=
  let bs := tableBytes nbits w
  match decodeTableBytes bs with
  | none => withRequest bs s
  | some (i, rest) =>
    let bytes := bs.take (bs.length - rest.length)
    if i.isRequest then withRequest bytes s
    else
      match i with
      | .unknown _ => withTarget bytes .permissive s
      | _ => withTarget bytes s.mode s

end Sys2Proof.Machine
end

