-- ==== Sys2Proof/Machine/Buffer.lean ====
section
/-! DEFINITION. The Byte Buffer Accessor: `BUF.LOAD`, `BUF.GETB`, `BUF.GETR`, `BUF.PUTR` (R120 to R126). -/

namespace Sys2Proof.Machine

/-- The state after an image is installed: a fresh buffer and name, no run, `MODE` strict; only `SET` stays of what was
before (R120, R311, decision D34). DEDUCED, unsafe: R120, R30 and R313 leave `MODE` out (log entry 11). -/
def loadImage (image : List Byte) (name : Text) (s : State) : State :=
  { s with mem := Memory.ofImage image, name := name, i := 0, mode := .strict, status := .idle, err := none, out := [],
           dwarn := [] }

/-- The `index` of LOAD_TOO_LONG: the image's length where 17 bits hold it, else the free value (R120, R95,
log entry 6). -/
def loadTooLongField (n : Nat) : Wide := if n < 131072 then wide n else Config.loadTooLongIndex n

/-- `BUF.LOAD image, name` (R120). -/
def execBufLoad (image : List Byte) (name : Text) (s : State) : Host.Outcome State Fault Refusal :=
  if 65536 < image.length then
    respond (.err { refusedErr .loadTooLong s.len with index := loadTooLongField image.length }) s
  else respond (.ok .unit []) (loadImage image name s)

/-- `BUF.GETB index` (R121). -/
def execBufGetb (index : Half) (s : State) : Host.Outcome State Fault Refusal :=
  respond ((memByte s.buf index.toNat .rangeArgument).map Value.byte) s

/-- The bytes of a range (R123). -/
def readRange (buf : List Byte) (r : RangeArg) : Reply (List Byte) :=
  (checkRange buf.length r).bind fun se => .ok (slice buf se.1 (se.2 - se.1)) []

/-- `BUF.GETR range` (R123). -/
def execBufGetr (range : RangeArg) (s : State) : Host.Outcome State Fault Refusal :=
  respond ((readRange s.buf range).map Value.bytes) s

/-- The `index` of LENGTH_MISMATCH: the data's length where 17 bits hold it, else 0x1FFFF (R124). -/
def mismatchField (n : Nat) : Wide := if n < 131072 then wide n else 0x1FFFF

/-- `BUF.PUTR range, data` (R124). -/
def execBufPutr (range : RangeArg) (data : List Byte) (s : State) : Host.Outcome State Fault Refusal :=
  if s.par.bufRw = false then
    respond (.err { refusedErr .notWritable s.len with field := .rangeArgument }) s
  else
    match checkRange s.len range with
    | .err e => respond (.err e) s
    | .ok (a, e) _ =>
      if data.length ≠ e - a then
        respond (.err { boundsErr .lengthMismatch .rangeArgument 0 s.len with
          index := mismatchField data.length
          code := BitVec.ofNat 16 (e - a) }) s
      else respond (.ok .unit []) { s with mem := s.mem.write a data }

end Sys2Proof.Machine
end

