-- ==== Sys2Proof/Machine/Disasm.lean ====
section
/-! DEFINITION. The Instruction Decoder: `DIS.START`, `DIS.STEP`, `DIS.RUN` (R220 to R235). -/

namespace Sys2Proof.Machine

/-- The prefixed path: the byte after the escape byte selects from `OPROM_CB`; a lone escape byte is an
error in both modes (R228, R229). -/
def stepPrefixed (s : State) : State × Reply StepEnd :=
  match memByte s.buf (s.i + 1) .prefixedOpcode with
  | .err e => failRun (e.inInstr s.i true) s
  | .ok op _ =>
    match opromCb s.par op with
    | none => missOpcode true op 0xCB s
    | some e => hitOpcode true op e operandValue s

/-- The standard path (R227). -/
def stepStandard (b0 : Byte) (s : State) : State × Reply StepEnd :=
  match opromStd s.par b0 with
  | none => missOpcode false b0 b0 s
  | some e => hitOpcode false b0 e operandValue s

/-- One step: classify the instruction at `I` (R226). The test for the escape byte comes first (R87). -/
def disStep (s : State) : State × Reply StepEnd :=
  onRunning s fun s =>
    match memByte s.buf s.i .opcode with
    | .err e => failRun (e.inInstr s.i false) s
    | .ok b0 _ => if b0 = 0xCB then stepPrefixed s else stepStandard b0 s

/-- Repeat `DIS.STEP` until the run is over, at most `n` times; the records and the warnings are the result
of a run that is DONE, the error that of one that failed (R234). -/
def runLoop : Nat → State → Option (State × Reply (List InstrPos))
  | 0, _ => none
  | n + 1, s =>
    match disStep s with
    | (s', .ok .emitted _) => runLoop n s'
    | (s', .ok .done _) => some (s', .ok s'.out s'.dwarn)
    | (s', .err e) => some (s', .err e)

/-- `DIS.START mode` (R224). -/
def execDisStart (m : Mode) (s : State) : Host.Outcome State Fault Refusal :=
  respond (.ok .unit []) (startRun m s)

/-- `DIS.STEP` (R226). -/
def execDisStep (s : State) : Host.Outcome State Fault Refusal := respondStep (disStep s)

/-- `DIS.RUN mode`: a whole run as one operation; it takes at most `LEN + 1` steps (R234, R232). -/
def execDisRun (m : Mode) (s : State) : Host.Outcome State Fault Refusal :=
  match runLoop (s.len + 1) (startRun m s) with
  | some (s', r) => respond (r.map Value.listing) s'
  | none => .fault .runDidNotEnd

end Sys2Proof.Machine
end

