-- ==== Sys2Proof/Machine/Lookup.lean ====
section
/-! DEFINITION. The table functions of R170 to R186: pure functions of a code and the parameters (R186). A
table function knows no `LEN`: its records get their `len` from the operation that returns them (R95,
log entry 7). -/

namespace Sys2Proof.Machine

/-- The records of a result with `len` filled in (R95). -/
def Reply.raisedAt {α : Type} (r : Reply α) (len : Nat) : Reply α :=
  match r with
  | .ok v d => .ok v (d.map fun e => { e with len := wide len })
  | .err e => .err { e with len := wide len }

/-- `ctype_of`: a closed table, a miss is an error (R174). -/
def ctypeOf (p : Params) (b : Byte) : Reply CartridgeType :=
  match ctypeRom p b with
  | some t => .ok t []
  | none => .err (tableMiss .unknownTableCode .cartridgeType (b.setWidth 16) 0x0147 0)

/-- `romsize_of`: `32768 * 2^b` for 0x00 to 0x08 and three irregular codes; closed (R178). -/
def romsizeOf (b : Byte) : Reply (BitVec 24) :=
  if b ≤ 0x08 then .ok (BitVec.ofNat 24 (32768 * 2 ^ b.toNat)) []
  else if b = 0x52 then .ok 1179648 []
  else if b = 0x53 then .ok 1310720 []
  else if b = 0x54 then .ok 1572864 []
  else .err (tableMiss .unknownTableCode .romSize (b.setWidth 16) 0x0148 0)

/-- `ramsize_of`: six codes; an open table, a miss is 0 with a warning (R180, R181). -/
def ramsizeOf (b : Byte) : Reply (BitVec 18) :=
  if b = 0x00 then .ok 0 []
  else if b = 0x01 then .ok 2048 []
  else if b = 0x02 then .ok 8192 []
  else if b = 0x03 then .ok 32768 []
  else if b = 0x04 then .ok 131072 []
  else if b = 0x05 then .ok 65536 []
  else .ok 0 [tableMiss .degradedTableCode .ramSize (b.setWidth 16) 0x0149 0]

/-- `dest_of`: an open table, a miss is Unknown with a warning (R183). -/
def destOf (p : Params) (b : Byte) : Reply Destination :=
  match destRom p b with
  | some .japan => .ok .japan []
  | some .overseas => .ok .overseas []
  | none => .ok .unknown [tableMiss .degradedTableCode .destination (b.setWidth 16) 0x014A 0]

/-- `sgb_of`: supported exactly for 0x03 (R184). -/
def sgbOf (b : Byte) : Bool := b == 0x03

/-- `cgb_of`: a match on the whole byte (R185). -/
def cgbOf (b : Byte) : CgbFlag :=
  if b = 0x80 then .compat
  else if b = 0xC0 then .cgbOnly
  else if b = 0x88 then .pgbMode
  else if b = 0x84 then .pgbMode
  else .none

/-- The old-licensee branch of the resolver (R171, R173). -/
def oldLicensee (p : Params) (o : Byte) : Reply Licensee :=
  match oldLicRom p o with
  | some n => .ok { source := .old, oldCode := o, newCode := 0, found := true, name := n } []
  | none =>
    .ok { source := .old, oldCode := o, newCode := 0, found := false, name := [] }
      [tableMiss .degradedTableCode .oldLicensee (o.setWidth 16) 0x014B 0]

/-- The new-licensee branch of the resolver, for the key of the two bytes at 0x0144 (R172, R173). -/
def newLicensee (p : Params) (key : Half) : Reply Licensee :=
  match newLicRom p key with
  | some n => .ok { source := .new, oldCode := 0x33, newCode := key, found := true, name := n } []
  | none =>
    .ok { source := .new, oldCode := 0x33, newCode := key, found := false, name := [] }
      [tableMiss .degradedTableCode .newLicensee key 0x0144 0]

end Sys2Proof.Machine
end

