-- ==== Sys2Proof/Machine/Header.lean ====
section
/-! DEFINITION. The Header Field Decoder: the sixteen field operations as pure functions of the buffer and the
parameters (R34, R140 to R158, R173), `HDR.ALL` (R159), and the meanings of the HDR instructions. -/

namespace Sys2Proof.Machine

/-! ## The fields -/

/-- `HDR.ENTRY` (R141). -/
def hdrEntry (buf : List Byte) : Reply (List Byte) := memRead buf 0x0100 4 .entryPoint

/-- `HDR.LOGO` (R142). -/
def hdrLogo (buf : List Byte) : Reply (List Byte) := memRead buf 0x0104 48 .logo

/-- `isUpperAlnum`: `A` to `Z` and `0` to `9` (R148). -/
def isUpperAlnum (b : Byte) : Bool := (0x41 ≤ b && b ≤ 0x5A) || (0x30 ≤ b && b ≤ 0x39)

/-- `m_present`: the four bytes 11 to 14 of the title region are all upper-case letters or digits (R145). -/
def manufPresent (t : List Byte) : Bool := (slice t 11 4).all isUpperAlnum

/-- The CGB view of the title region, its last byte (R143, R145). -/
def regionCgb (t : List Byte) : CgbFlag :=
  match t[15]? with
  | some b => cgbOf b
  | none => .none

/-- The effective title length (R145). The manufacturer test has priority over the CGB test. -/
def titleLength (t : List Byte) : Nat :=
  if manufPresent t then 11 else if regionCgb t ≠ .none then 15 else 16

/-- The title region is read whole, whichever view is wanted (R144). -/
def titleRegion (buf : List Byte) (field : Field) : Reply (List Byte) := memRead buf 0x0134 16 field

/-- Everything up to and including the last non-zero byte (R146). -/
def trimZeros (l : List Byte) : List Byte := (l.reverse.dropWhile (· == 0)).reverse

/-- The first byte of 0x80 or above, with its position (R146). -/
def firstNonAscii (k : Nat) : List Byte → Option (Nat × Byte)
  | [] => none
  | b :: l => if 0x80 ≤ b then some (k, b) else firstNonAscii (k + 1) l

/-- The title of a title region (R146). -/
def titleOf (t : List Byte) (len : Nat) : Reply Text :=
  let s := trimZeros (t.take (titleLength t))
  match firstNonAscii 0 s with
  | some (k, b) =>
    .err { blankRec .invalidText len with field := .title, code := b.setWidth 16, index := wide (0x0134 + k) }
  | none => .ok s []

/-- `HDR.TITLE` (R146). -/
def hdrTitle (buf : List Byte) : Reply Text :=
  (titleRegion buf .title).bind fun t => titleOf t buf.length

/-- `HDR.MANUF` (R147). -/
def hdrManuf (buf : List Byte) : Reply (Option (List Byte)) :=
  (titleRegion buf .manufacturer).map fun t => if manufPresent t then some (slice t 11 4) else none

/-- `HDR.CGB` (R149). -/
def hdrCgb (buf : List Byte) : Reply CgbFlag := (memByte buf 0x0143 .cgbFlag).map cgbOf

/-- `HDR.NEWLIC` (R150). -/
def hdrNewlic (buf : List Byte) : Reply (List Byte) := memRead buf 0x0144 2 .newLicensee

/-- `HDR.SGB` (R151). -/
def hdrSgb (buf : List Byte) : Reply Bool := (memByte buf 0x0146 .sgbFlag).map sgbOf

/-- `HDR.CTYPE` (R152). -/
def hdrCtype (p : Params) (buf : List Byte) : Reply CartridgeType :=
  (memByte buf 0x0147 .cartridgeType).bind fun b => (ctypeOf p b).raisedAt buf.length

/-- `HDR.ROMSZ` (R153). -/
def hdrRomsz (buf : List Byte) : Reply (BitVec 24) :=
  (memByte buf 0x0148 .romSize).bind fun b => (romsizeOf b).raisedAt buf.length

/-- `HDR.RAMSZ` (R154). -/
def hdrRamsz (buf : List Byte) : Reply (BitVec 18) :=
  (memByte buf 0x0149 .ramSize).bind fun b => (ramsizeOf b).raisedAt buf.length

/-- `HDR.DEST` (R155). -/
def hdrDest (p : Params) (buf : List Byte) : Reply Destination :=
  (memByte buf 0x014A .destination).bind fun b => (destOf p b).raisedAt buf.length

/-- `HDR.OLDLIC` (R156). -/
def hdrOldlic (buf : List Byte) : Reply Byte := memByte buf 0x014B .oldLicensee

/-- `HDR.VER` (R157). -/
def hdrVer (buf : List Byte) : Reply Byte := memByte buf 0x014C .version

/-- `HDR.HCHK` (R158). -/
def hdrHchk (buf : List Byte) : Reply Byte := memByte buf 0x014D .headerChecksum

/-- `HDR.GCHK`, big-endian (R158, R54). -/
def hdrGchk (buf : List Byte) : Reply Half := (memRead buf 0x014E 2 .globalChecksum).map bigEndian

/-- `HDR.LICENSEE`: the old byte first; 0x33 selects the new table, and only then are its two bytes read
(R173). -/
def hdrLicensee (p : Params) (buf : List Byte) : Reply Licensee :=
  (memByte buf 0x014B .licensee).bind fun o =>
    if o = 0x33 then
      (memRead buf 0x0144 2 .licensee).bind fun c => (newLicensee p (bigEndian c)).raisedAt buf.length
    else (oldLicensee p o).raisedAt buf.length

/-! ## The whole header -/

/-- The Cartridge record: each slot the result of its own operation; usable exactly when the cartridge type
and the ROM size decode (R159, R160). -/
def hdrAllRecord (p : Params) (buf : List Byte) : Cartridge :=
  { entry := hdrEntry buf, logo := hdrLogo buf, title := hdrTitle buf, manuf := hdrManuf buf, cgb := hdrCgb buf,
    newlic := hdrNewlic buf, sgb := hdrSgb buf, ctype := hdrCtype p buf, romsz := hdrRomsz buf,
    ramsz := hdrRamsz buf, dest := hdrDest p buf, oldlic := hdrOldlic buf, ver := hdrVer buf,
    hchk := hdrHchk buf, gchk := hdrGchk buf, licensee := hdrLicensee p buf,
    usable := (hdrCtype p buf).isOk && (hdrRomsz buf).isOk }

/-- The `diags` of `HDR.ALL`, in slot order (R159). -/
def cartridgeNotes (c : Cartridge) : List ErrRec :=
  c.entry.notes ++ c.logo.notes ++ c.title.notes ++ c.manuf.notes ++ c.cgb.notes ++ c.newlic.notes ++ c.sgb.notes ++
    c.ctype.notes ++ c.romsz.notes ++ c.ramsz.notes ++ c.dest.notes ++ c.oldlic.notes ++ c.ver.notes ++ c.hchk.notes ++
    c.gchk.notes ++ c.licensee.notes

/-- `HDR.ALL` never fails (R159). -/
def hdrAll (p : Params) (buf : List Byte) : Reply Cartridge :=
  .ok (hdrAllRecord p buf) (cartridgeNotes (hdrAllRecord p buf))

/-! ## The meanings -/

/-- `HDR.ENTRY` (R141). -/
def execHdrEntry (s : State) : Host.Outcome State Fault Refusal := respond ((hdrEntry s.buf).map Value.bytes) s

/-- `HDR.LOGO` (R142). -/
def execHdrLogo (s : State) : Host.Outcome State Fault Refusal := respond ((hdrLogo s.buf).map Value.bytes) s

/-- `HDR.TITLE` (R146). -/
def execHdrTitle (s : State) : Host.Outcome State Fault Refusal := respond ((hdrTitle s.buf).map Value.bytes) s

/-- `HDR.MANUF` (R147). -/
def execHdrManuf (s : State) : Host.Outcome State Fault Refusal :=
  respond ((hdrManuf s.buf).map Value.bytesOption) s

/-- `HDR.CGB` (R149). -/
def execHdrCgb (s : State) : Host.Outcome State Fault Refusal := respond ((hdrCgb s.buf).map Value.cgb) s

/-- `HDR.NEWLIC` (R150). -/
def execHdrNewlic (s : State) : Host.Outcome State Fault Refusal := respond ((hdrNewlic s.buf).map Value.bytes) s

/-- `HDR.SGB` (R151). -/
def execHdrSgb (s : State) : Host.Outcome State Fault Refusal := respond ((hdrSgb s.buf).map Value.bit) s

/-- `HDR.CTYPE` (R152). -/
def execHdrCtype (s : State) : Host.Outcome State Fault Refusal :=
  respond ((hdrCtype s.par s.buf).map Value.ctype) s

/-- `HDR.ROMSZ` (R153). -/
def execHdrRomsz (s : State) : Host.Outcome State Fault Refusal := respond ((hdrRomsz s.buf).map Value.romBytes) s

/-- `HDR.RAMSZ` (R154). -/
def execHdrRamsz (s : State) : Host.Outcome State Fault Refusal := respond ((hdrRamsz s.buf).map Value.ramBytes) s

/-- `HDR.DEST` (R155). -/
def execHdrDest (s : State) : Host.Outcome State Fault Refusal := respond ((hdrDest s.par s.buf).map Value.dest) s

/-- `HDR.OLDLIC` (R156). -/
def execHdrOldlic (s : State) : Host.Outcome State Fault Refusal := respond ((hdrOldlic s.buf).map Value.byte) s

/-- `HDR.VER` (R157). -/
def execHdrVer (s : State) : Host.Outcome State Fault Refusal := respond ((hdrVer s.buf).map Value.byte) s

/-- `HDR.HCHK` (R158). -/
def execHdrHchk (s : State) : Host.Outcome State Fault Refusal := respond ((hdrHchk s.buf).map Value.byte) s

/-- `HDR.GCHK` (R158). -/
def execHdrGchk (s : State) : Host.Outcome State Fault Refusal := respond ((hdrGchk s.buf).map Value.half) s

/-- `HDR.LICENSEE` (R173). -/
def execHdrLicensee (s : State) : Host.Outcome State Fault Refusal :=
  respond ((hdrLicensee s.par s.buf).map Value.licensee) s

/-- `HDR.ALL` (R159). -/
def execHdrAll (s : State) : Host.Outcome State Fault Refusal :=
  respond ((hdrAll s.par s.buf).map Value.cartridge) s

end Sys2Proof.Machine
end

