-- ==== Sys2Proof/Machine/Epd.lean ====
section
/-! DEFINITION. Entry-point deduplication: `EPD.CLEAR`, `EPD.INSERT`, `EPD.SORTED` (R239 to R242). -/

namespace Sys2Proof.Machine

/-- The order of keys: at the first position where they differ, the unsigned bytes decide (R241). -/
def keyLt : List Byte → List Byte → Bool
  | [], [] => false
  | [], _ :: _ => true
  | _ :: _, [] => false
  | a :: l, b :: m => if a = b then keyLt l m else a < b

/-- Put a key in its place among ascending keys; a key that is there already is not put twice (R35, R240). -/
def insertKey (k : List Byte) : List (List Byte) → List (List Byte)
  | [] => [k]
  | x :: l => if k = x then x :: l else if keyLt k x then k :: x :: l else x :: insertKey k l

/-- The keys as an ascending sequence without duplicates (R241). -/
def sortKeys (l : List (List Byte)) : List (List Byte) := l.foldr insertKey []

/-- `EPD.CLEAR` (R239). -/
def execEpdClear (s : State) : Host.Outcome State Fault Refusal := respond (.ok .unit []) { s with keys := [] }

/-- `EPD.INSERT`: the entry point of the current image; the response says whether it was new (R240). -/
def execEpdInsert (s : State) : Host.Outcome State Fault Refusal :=
  match hdrEntry s.buf with
  | .err e => respond (.err e) s
  | .ok k _ => respond (.ok (.bit (!s.keys.contains k)) []) { s with keys := insertKey k s.keys }

/-- `EPD.SORTED` (R241). -/
def execEpdSorted (s : State) : Host.Outcome State Fault Refusal :=
  respond (.ok (.keys (sortKeys s.keys)) []) s

end Sys2Proof.Machine
end

