-- ==== Sys2Proof/Machine/Target.lean ====
section
/-! DEFINITION. The target-stream classes of the opcode table: what a step does when the instruction at `I` is
the one given (R231, R236 to R238). Their target code is never executed (R1): the effect is the record
emitted and the advance of `I`. A step that finds no run, or `I = LEN`, ends as every step does (R232). -/

namespace Sys2Proof.Machine

/-- A standard opcode that stands at `I`, with the operand bytes `operand` (R227). -/
def standardAt (op : Byte) (operand : List Byte) (s : State) : State × Reply StepEnd :=
  match opromStd s.par op with
  | none => missOpcode false op op s
  | some e => hitOpcode false op e (fun _ => operandValue operand) s

/-- A prefixed opcode that stands at `I + 1`, with as many of the operand bytes `operand` as its entry
declares (R228). -/
def prefixedAt (op : Byte) (operand : List Byte) (s : State) : State × Reply StepEnd :=
  match opromCb s.par op with
  | none => missOpcode true op 0xCB s
  | some e => hitOpcode true op e (fun _ => operandValue (operand.take (opBytes e.nops))) s

/-- `NOP` (R236). -/
def execNop (s : State) : Host.Outcome State Fault Refusal := respondStep (onRunning s (standardAt 0x00 []))

/-- `JP a16`: the jump is not taken (R237, R25). -/
def execJpA16 (target : Half) (s : State) : Host.Outcome State Fault Refusal :=
  respondStep (onRunning s (standardAt 0xC3 (leBytes target)))

/-- A prefixed opcode (R238). The escape byte is at `I`; without a byte after it the run fails (R229). -/
def execPrefixCb (o l h : Byte) (s : State) : Host.Outcome State Fault Refusal :=
  respondStep (onRunning s fun s =>
    match memByte s.buf (s.i + 1) .prefixedOpcode with
    | .err e => failRun (e.inInstr s.i true) s
    | .ok _ _ => prefixedAt o [l, h] s)

/-- A byte with no entry in the standard table: the sentinel in permissive mode, the failure of the run in
strict mode (R230, R231). -/
def execUnknown (x : Byte) (s : State) : Host.Outcome State Fault Refusal :=
  respondStep (onRunning s (missOpcode false x x))

end Sys2Proof.Machine
end

