-- ==== Sys2Proof/Machine/Validator.lean ====
section
/-! DEFINITION. The checksum generator and the Header Validator (R200 to R212). -/

namespace Sys2Proof.Machine

/-! ## Checksum generator -/

/-- The header-checksum recurrence over a byte sequence: `x - b - 1` modulo 256, from 0 (R200). -/
def headerSum (h : List Byte) : Byte := h.foldl (fun x b => x - b - 1) 0

/-- `CHK.HDR` (R200). -/
def chkHdr (buf : List Byte) : Reply Byte := (memRead buf 0x0134 25 .headerChecksum).map headerSum

/-- The 16-bit wraparound sum of a byte sequence (R202). -/
def wordSum (l : List Byte) : Half := l.foldl (fun x b => x + b.setWidth 16) 0

/-- Every byte of the buffer but the two checksum bytes at 0x014E and 0x014F (R202, WHOLE). -/
def summedBytes (buf : List Byte) : List Byte :=
  (buf.zipIdx.filter fun c => c.2 != 0x014E && c.2 != 0x014F).map Prod.fst

/-- `CHK.GLB`: over the whole buffer, or over 0x0100 to 0x014D (R202). -/
def chkGlb (p : Params) (buf : List Byte) : Reply Half :=
  match p.gchkRange with
  | .whole => .ok (wordSum (summedBytes buf)) []
  | .header => (memRead buf 0x0100 78 .globalChecksum).map wordSum

/-! ## Validator -/

/-- A CheckResult whose other fields are zero or none (R95, log entry 8). -/
def verdict (c : Check) (reason : Reason) (cause : Option ErrRec) : CheckResult :=
  { check := c, pass := reason == .none, reason := reason, computed := 0, stored := 0, cause := cause }

/-- A check whose input did not decode (R210). -/
def undecodable (c : Check) (e : ErrRec) : CheckResult := verdict c .undecodable (some e)

/-- `VAL.LOGO` (R205). -/
def valLogo (p : Params) (buf : List Byte) : CheckResult :=
  match hdrLogo buf with
  | .err e => undecodable .logo e
  | .ok l _ => if l = p.logoRef.toList then verdict .logo .none none else verdict .logo .logoMismatch none

/-- `VAL.RAM` (R206). -/
def valRam (p : Params) (buf : List Byte) : CheckResult :=
  match hdrCtype p buf with
  | .err e => undecodable .ram e
  | .ok t _ =>
    match hdrRamsz buf with
    | .err e => undecodable .ram e
    | .ok size _ =>
      if t.ram = true ∧ size = 0 then verdict .ram .ramFlagWithoutSize none
      else if t.ram = false ∧ size ≠ 0 then verdict .ram .ramSizeWithoutFlag none
      else verdict .ram .none none

/-- The comparison of a computed with a stored checksum; a mismatch carries a ChecksumMismatch record
(R207, R208, R286). -/
def compareSums (c : Check) (field : Field) (index len : Nat) (computed stored : Reply Half) : CheckResult :=
  match computed with
  | .err e => undecodable c e
  | .ok x _ =>
    match stored with
    | .err e => undecodable c e
    | .ok y _ =>
      if x = y then { verdict c .none none with computed := x, stored := y }
      else
        { verdict c .checksumMismatch
            (some { blankRec .checksumMismatch len with field := field, code := y, index := wide index }) with
          computed := x, stored := y }

/-- `VAL.HCHK` (R207). -/
def valHchk (buf : List Byte) : CheckResult :=
  compareSums .headerChecksum .headerChecksum 0x014D buf.length
    ((chkHdr buf).map fun b => b.setWidth 16) ((hdrHchk buf).map fun b => b.setWidth 16)

/-- `VAL.GCHK`, advisory (R208). -/
def valGchk (p : Params) (buf : List Byte) : CheckResult :=
  compareSums .globalChecksum .globalChecksum 0x014E buf.length (chkGlb p buf) (hdrGchk buf)

/-- `VAL.ALL`: the four results; the global check is no term of the verdict (R209). -/
def valAll (p : Params) (buf : List Byte) : Report :=
  { logo := valLogo p buf, ram := valRam p buf, hchk := valHchk buf, gchk := valGchk p buf,
    pass := (valLogo p buf).pass && (valRam p buf).pass && (valHchk buf).pass }

/-! ## The meanings -/

/-- `CHK.HDR` (R200). -/
def execChkHdr (s : State) : Host.Outcome State Fault Refusal := respond ((chkHdr s.buf).map Value.byte) s

/-- `CHK.GLB` (R202). -/
def execChkGlb (s : State) : Host.Outcome State Fault Refusal := respond ((chkGlb s.par s.buf).map Value.half) s

/-- `VAL.LOGO` (R205). -/
def execValLogo (s : State) : Host.Outcome State Fault Refusal := respond (.ok (.check (valLogo s.par s.buf)) []) s

/-- `VAL.RAM` (R206). -/
def execValRam (s : State) : Host.Outcome State Fault Refusal := respond (.ok (.check (valRam s.par s.buf)) []) s

/-- `VAL.HCHK` (R207). -/
def execValHchk (s : State) : Host.Outcome State Fault Refusal := respond (.ok (.check (valHchk s.buf)) []) s

/-- `VAL.GCHK` (R208). -/
def execValGchk (s : State) : Host.Outcome State Fault Refusal := respond (.ok (.check (valGchk s.par s.buf)) []) s

/-- `VAL.ALL` (R209). -/
def execValAll (s : State) : Host.Outcome State Fault Refusal := respond (.ok (.report (valAll s.par s.buf)) []) s

end Sys2Proof.Machine
end

