-- ==== Sys2Proof/Machine/Dispatch.lean ====
section
/-! DEFINITION. exec: one arm per instruction, each one call of its meaning. -/

namespace Sys2Proof.Machine

def exec (i : Instr) (s : State) : Host.Outcome State Fault Refusal :=
  match i with
  | .bufLoad image name => Sys2Proof.Machine.execBufLoad image name s
  | .bufGetb index => Sys2Proof.Machine.execBufGetb index s
  | .bufGetr range => Sys2Proof.Machine.execBufGetr range s
  | .bufPutr range data => Sys2Proof.Machine.execBufPutr range data s
  | .hdrEntry => Sys2Proof.Machine.execHdrEntry s
  | .hdrLogo => Sys2Proof.Machine.execHdrLogo s
  | .hdrTitle => Sys2Proof.Machine.execHdrTitle s
  | .hdrManuf => Sys2Proof.Machine.execHdrManuf s
  | .hdrCgb => Sys2Proof.Machine.execHdrCgb s
  | .hdrNewlic => Sys2Proof.Machine.execHdrNewlic s
  | .hdrSgb => Sys2Proof.Machine.execHdrSgb s
  | .hdrCtype => Sys2Proof.Machine.execHdrCtype s
  | .hdrRomsz => Sys2Proof.Machine.execHdrRomsz s
  | .hdrRamsz => Sys2Proof.Machine.execHdrRamsz s
  | .hdrDest => Sys2Proof.Machine.execHdrDest s
  | .hdrOldlic => Sys2Proof.Machine.execHdrOldlic s
  | .hdrVer => Sys2Proof.Machine.execHdrVer s
  | .hdrHchk => Sys2Proof.Machine.execHdrHchk s
  | .hdrGchk => Sys2Proof.Machine.execHdrGchk s
  | .hdrLicensee => Sys2Proof.Machine.execHdrLicensee s
  | .hdrAll => Sys2Proof.Machine.execHdrAll s
  | .chkHdr => Sys2Proof.Machine.execChkHdr s
  | .chkGlb => Sys2Proof.Machine.execChkGlb s
  | .valLogo => Sys2Proof.Machine.execValLogo s
  | .valRam => Sys2Proof.Machine.execValRam s
  | .valHchk => Sys2Proof.Machine.execValHchk s
  | .valGchk => Sys2Proof.Machine.execValGchk s
  | .valAll => Sys2Proof.Machine.execValAll s
  | .disStart mode => Sys2Proof.Machine.execDisStart mode s
  | .disStep => Sys2Proof.Machine.execDisStep s
  | .disRun mode => Sys2Proof.Machine.execDisRun mode s
  | .epdClear => Sys2Proof.Machine.execEpdClear s
  | .epdInsert => Sys2Proof.Machine.execEpdInsert s
  | .epdSorted => Sys2Proof.Machine.execEpdSorted s
  | .nop => Sys2Proof.Machine.execNop s
  | .jpA16 target => Sys2Proof.Machine.execJpA16 target s
  | .prefixCb o l h => Sys2Proof.Machine.execPrefixCb o l h s
  | .unknown x => Sys2Proof.Machine.execUnknown x s

end Sys2Proof.Machine
end

