-- ==== Sys2Proof/Machine/Step.lean ====
section
/-! DEFINITION. One step of the block: serve the oldest waiting request (R60, R63). With no request waiting
the block is idle and keeps all state (R298). -/

namespace Sys2Proof.Machine

/-- One step. -/
def step (s : State) : Host.Outcome State Fault Refusal :=
  match fetch s with
  | .idle => .next s
  | .request i s' => exec i s'
  | .undefinedOp op s' => refuseOp op s'
  | .malformed => .refused .malformedRequest

/-- `s` with a word of the opcode table placed so that the next step runs it (log entry 5). -/
def State.withFetchWord (s : State) (nbits w : Nat) : State := placeWord nbits w s

end Sys2Proof.Machine
end

