-- ==== Sys2Proof/Safety.lean ====
section
/-! DEFINITION. What holds of the block in every state it can reach, and what a safe run is: one that neither
faults nor refuses. -/

namespace Sys2Proof.Machine

/-! ## The invariant -/

/-- The records tile the indices from `a` up to `e`: each starts where the one before it ends (R233). -/
def tiles (a : Nat) : List InstrPos → Nat → Bool
  | [], e => a == e
  | r :: l, e => r.offset == a && tiles (a + r.instr.length) l e

/-- An Instruction record of the right shape: `length = 1 + prefixed + nops` with at most two operand bytes
(R84, R85), an operand of 0 when there are no operand bytes (R90), a low nibble of `flags` that is zero
(R92), and the fixed fields of the sentinel when `unknown` is set (R231). -/
def recordOk (r : InstrRec) : Bool :=
  r.length == 1 + r.prefixed.toNat + r.nops && r.nops ≤ 2 && (r.nops != 0 || r.operand == 0) &&
    (r.flags &&& 0x0F) == 0 &&
    (!r.unknown || (r.prefixed == false && r.nops == 0 && r.cycles == 0 && r.flags == 0))

/-- The keys ascend in the order of R241, each of four bytes, so none stands twice (R35). -/
abbrev keysOk (l : List (List Byte)) : Prop := l.Pairwise (fun a b => keyLt a b = true) ∧ ∀ k ∈ l, k.length = 4

/-- `STATUS`, `ERR`, `I`, `MODE` and `DWARN` agree (R26, R30 to R33, R232). -/
abbrev runOk (s : State) : Prop :=
  s.i ≤ s.len ∧ (s.err.isSome = true ↔ s.status = .error) ∧ (s.status = .done → s.i = s.len) ∧
    (s.status = .idle → s.i = 0 ∧ s.out = [] ∧ s.dwarn = []) ∧ (s.mode = .strict → s.dwarn = []) ∧
    s.dwarn.length = (s.out.filter fun r => r.instr.unknown).length ∧ ∀ e ∈ s.dwarn, e.kind = .unknownOpcode

/-- The invariant of the block. -/
abbrev State.Inv (s : State) : Prop :=
  s.mem.wf ∧ runOk s ∧ tiles 0 s.out s.i = true ∧ (∀ r ∈ s.out, recordOk r.instr = true) ∧ keysOk s.keys

/-! ## Safe runs -/

/-- A frame the block has an answer for: a request, or an operation code it refuses (R99). -/
def answerable (frame : List Byte) : Bool :=
  match decodeFrame frame with
  | .ok _ => true
  | .error (.undefinedOp _) => true
  | .error _ => false

/-- `n` steps from `s` neither fault nor refuse. -/
def SafeRun : Nat → State → Prop
  | 0, _ => True
  | n + 1, s => ∃ t, step s = .next t ∧ SafeRun n t

end Sys2Proof.Machine
end

