-- ==== Sys2Proof/Certificates/Slice0/Obligations.lean ====
section
/-! DEFINITION. The statements for the provers. The definitions of the namespace `Spec` are the words they are
written in; each names the rule it follows. -/

namespace Sys2Proof.Spec

open Sys2Proof.Machine

/-! ## The words of the statements -/

/-- `i` completes in `s`: its response is `r`, and nothing else of the state changes (R13, R292). -/
def Replies (i : Instr) (s : State) (r : Response) : Prop := exec i s = .next { s with resp := some r }

/-- `i` completes in `s` with an error response that `P` describes, and nothing else changes (R293). -/
def Fails (i : Instr) (s : State) (P : ErrRec → Prop) : Prop := ∃ e, Replies i s (.err e) ∧ P e

/-- `i` completes in `s` with the value `v` and one warning that `P` describes, and nothing else changes. -/
def Warns (i : Instr) (s : State) (v : Value) (P : ErrRec → Prop) : Prop := ∃ e, Replies i s (.ok v [e]) ∧ P e

/-- `i` ends the run in ERROR with a record that `P` describes; `I`, `OUT`, `DWARN` and the rest stay (R226, R235). -/
def FailsRun (i : Instr) (s : State) (P : ErrRec → Prop) : Prop :=
  ∃ e, exec i s = .next { s with status := .error, err := some e, resp := some (.err e) } ∧ P e

/-- The state after a step that emits `r` (R226). -/
def emitted (s : State) (r : InstrRec) : State :=
  { s with out := s.out ++ [{ offset := s.i, instr := r }], i := s.i + r.length,
           resp := some (.ok (.stepEnd .emitted) []) }

/-- The bytes `l` stand in the buffer from index `a` on. -/
def BytesAt (s : State) (a : Nat) (l : List Byte) : Prop :=
  ∀ k, k < l.length → Memory.read s.mem (a + k) = l[k]?

/-- A BoundsError record (R282). -/
def BoundsRec (sub : BoundsSub) (f : Field) (index len : Nat) (e : ErrRec) : Prop :=
  e.kind = .bounds sub ∧ e.field = f ∧ e.index = BitVec.ofNat 17 index ∧ e.len = BitVec.ofNat 17 len

/-- A record of a table miss or of invalid text (R283 to R285). -/
def CodeRec (kind : ErrKind) (f : Field) (code : Half) (index : Nat) (e : ErrRec) : Prop :=
  e.kind = kind ∧ e.field = f ∧ e.code = code ∧ e.index = BitVec.ofNat 17 index

/-- The fixed-offset read of a field: a whole field inside the buffer, else START or END (R52, R126). -/
def ReadsField (i : Instr) (a n : Nat) (f : Field) (s : State) : Prop :=
  (a + n ≤ s.len → ∃ l, l.length = n ∧ BytesAt s a l ∧ Replies i s (.ok (.bytes l) [])) ∧
  (s.len ≤ a → Fails i s (BoundsRec .start f a s.len)) ∧
  (a < s.len → s.len < a + n → Fails i s (BoundsRec .stop f (a + n) s.len))

/-- A one-byte field beyond the buffer is an INDEX error (R52). -/
def MissesByte (i : Instr) (a : Nat) (f : Field) (s : State) : Prop :=
  s.len ≤ a → Fails i s (BoundsRec .index f a s.len)

/-- The resolution of a range argument to `(a, e)` (R83). -/
def Resolves (len : Nat) (r : RangeArg) (a e : Nat) : Prop :=
  (match r.start with
   | .unbounded => a = 0
   | .fromIdx x => a = x.toNat) ∧
  (match r.stop with
   | .unbounded => e = len
   | .toExcl x => e = x.toNat
   | .toIncl x => e = x.toNat + 1)

/-- The three tests of the range check, in their order (R122). -/
def RangeErrors (i : Instr) (a e : Nat) (s : State) : Prop :=
  (s.len ≤ a → Fails i s (BoundsRec .start .rangeArgument a s.len)) ∧
  (a < s.len → s.len < e → Fails i s (BoundsRec .stop .rangeArgument e s.len)) ∧
  (a < s.len → e ≤ s.len → e < a → Fails i s (BoundsRec .inverted .rangeArgument e s.len))

/-- An upper-case ASCII letter or a digit (R148). -/
def UpperAlnum (b : Byte) : Prop :=
  (0x41 ≤ b.toNat ∧ b.toNat ≤ 0x5A) ∨ (0x30 ≤ b.toNat ∧ b.toNat ≤ 0x39)

/-- The bytes 11 to 14 of the title region spell a manufacturer code (R145). -/
def ManufPresent (t : List Byte) : Prop := ∀ k, 11 ≤ k → k ≤ 14 → ∃ b, t[k]? = some b ∧ UpperAlnum b

/-- The last byte of the title region is a recognised CGB flag (R145, R185). -/
def CgbPresent (t : List Byte) : Prop :=
  t[15]? = some 0x80 ∨ t[15]? = some 0x84 ∨ t[15]? = some 0x88 ∨ t[15]? = some 0xC0

/-- The effective title length (R145). -/
def TitleLength (t : List Byte) (n : Nat) : Prop :=
  (ManufPresent t → n = 11) ∧ (¬ManufPresent t → CgbPresent t → n = 15) ∧
    (¬ManufPresent t → ¬CgbPresent t → n = 16)

/-- `l` is `t` without its trailing run of zero bytes (R146). -/
def Trimmed (t l : List Byte) : Prop := (∃ z, t = l ++ List.replicate z 0) ∧ l.getLast? ≠ some 0

/-- The opcode at `I`: the byte there, or the byte after the escape byte 0xCB (R226 to R228). -/
def OpcodeAt (s : State) (pre : Bool) (op : Byte) : Prop :=
  (pre = false → Memory.read s.mem s.i = some op ∧ op ≠ 0xCB) ∧
  (pre = true → Memory.read s.mem s.i = some 0xCB ∧ Memory.read s.mem (s.i + 1) = some op)

/-- The table that the opcode is looked up in (R226). -/
def entryOf (s : State) (pre : Bool) (op : Byte) : Option OpEntry :=
  if pre then opromCb s.par op else opromStd s.par op

/-- The operand value of the operand bytes from index `a` on: none, one, or low byte then high byte (R88 to R90). -/
def OperandAt (s : State) (a : Nat) : OperandCount → Half → Prop
  | .zero, v => v = 0
  | .one, v => ∃ d, Memory.read s.mem a = some d ∧ v = d.setWidth 16
  | .two, v => ∃ lo hi, Memory.read s.mem a = some lo ∧ Memory.read s.mem (a + 1) = some hi ∧ v = hi ++ lo

/-- The number of operand bytes (R85). -/
def count : OperandCount → Nat
  | .zero => 0
  | .one => 1
  | .two => 2

/-- The record of an opcode with an entry (R93, R226). -/
def instrRec (pre : Bool) (op : Byte) (ent : OpEntry) (v : Half) : InstrRec :=
  { opcode := op, prefixed := pre, unknown := false, mnemonic := ent.mnemonic,
    length := 1 + pre.toNat + count ent.nops, nops := count ent.nops, operand := v, cycles := ent.cycles,
    flags := ent.flags &&& 0xF0 }

/-- The sentinel for the byte `b` (R231). -/
def unknownRec (s : State) (b : Byte) : InstrRec :=
  { opcode := b, prefixed := false, unknown := true, mnemonic := s.par.unkMnem, length := 1, nops := 0, operand := 0,
    cycles := 0, flags := 0 }

/-- The record of an unknown opcode (R230, R287). -/
def UnknownRec (s : State) (pre : Bool) (op : Byte) (e : ErrRec) : Prop :=
  e.kind = .unknownOpcode ∧ e.field = (if pre then .prefixedOpcode else .opcode) ∧ e.code = op.setWidth 16 ∧
    e.index = BitVec.ofNat 17 (s.i + pre.toNat) ∧ e.start = BitVec.ofNat 17 s.i ∧ e.len = BitVec.ofNat 17 s.len ∧
    e.prefixed = pre

/-- The record of insufficient bytes (R229). -/
def MissingRec (s : State) (sub : BoundsSub) (f : Field) (index : Nat) (pre : Bool) (e : ErrRec) : Prop :=
  BoundsRec sub f index s.len e ∧ e.start = BitVec.ofNat 17 s.i ∧ e.prefixed = pre

/-- A permissive step over an unknown opcode: the sentinel for `b` is emitted, with one warning (R231). -/
def Substitutes (i : Instr) (s : State) (b : Byte) (P : ErrRec → Prop) : Prop :=
  ∃ e, exec i s = .next { emitted s (unknownRec s b) with dwarn := s.dwarn ++ [e] } ∧ P e

/-- The missing operand bytes of an entry, the opcode at index `at'` (R226, R229). -/
def MissingOperand (i : Instr) (s : State) (pre : Bool) (ent : OpEntry) : Prop :=
  (ent.nops = .one → s.len ≤ s.i + pre.toNat + 1 →
    FailsRun i s (MissingRec s .index .operand (s.i + pre.toNat + 1) pre)) ∧
  (ent.nops = .two → s.len ≤ s.i + pre.toNat + 1 →
    FailsRun i s (MissingRec s .start .operand (s.i + pre.toNat + 1) pre)) ∧
  (ent.nops = .two → s.i + pre.toNat + 1 < s.len → s.len < s.i + pre.toNat + 3 →
    FailsRun i s (MissingRec s .stop .operand (s.i + pre.toNat + 3) pre))

/-- `t` comes from `s` by `k` steps of a run in progress (R226). -/
def Steps : Nat → State → State → Prop
  | 0, s, t => t = s
  | k + 1, s, t => s.status = .running ∧ ∃ u, exec .disStep s = .next u ∧ Steps k u t

/-- `t` comes from `s` by the instructions of a list, in order. -/
def Runs : List Instr → State → State → Prop
  | [], s, t => t = s
  | i :: l, s, t => ∃ u, exec i s = .next u ∧ Runs l u t

/-- The state of a run that has just started (R224). -/
def started (m : Mode) (s : State) : State :=
  { s with i := 0, mode := m, status := .running, err := none, out := [], dwarn := [] }

/-- The operations that are pure functions of the buffer and the parameters (R34, R140, R212). -/
def readsOnly : Instr → Bool
  | .bufGetb _ | .bufGetr _ => true
  | .hdrEntry | .hdrLogo | .hdrTitle | .hdrManuf | .hdrCgb | .hdrNewlic | .hdrSgb | .hdrCtype => true
  | .hdrRomsz | .hdrRamsz | .hdrDest | .hdrOldlic | .hdrVer | .hdrHchk | .hdrGchk => true
  | .hdrLicensee | .hdrAll => true
  | .chkHdr | .chkGlb | .valLogo | .valRam | .valHchk | .valGchk | .valAll => true
  | .bufLoad _ _ | .bufPutr _ _ | .disStart _ | .disStep | .disRun _ | .epdClear | .epdInsert | .epdSorted => false
  | .nop | .jpA16 _ | .prefixCb _ _ _ | .unknown _ => false

/-- The operations that may write the buffer (R23, R59). -/
def writesBuffer : Instr → Bool
  | .bufLoad _ _ | .bufPutr _ _ => true
  | _ => false

/-- The operations of the disassembler, with the classes of the target stream. -/
def disassembles : Instr → Bool
  | .disStart _ | .disStep | .disRun _ | .nop | .jpA16 _ | .prefixCb _ _ _ | .unknown _ => true
  | _ => false

/-- The operations that end the run they find and begin anew (R224, R234, R120). -/
def startsAnew : Instr → Bool
  | .disStart _ | .disRun _ | .bufLoad _ _ => true
  | _ => false

/-- The operation codes of the table of R82. -/
def opCodes : List Byte := [
  0x00, 0x01, 0x02, 0x03, 0x10, 0x11, 0x12, 0x13, 0x14, 0x15, 0x16, 0x17, 0x18, 0x19, 0x1A, 0x1B, 0x1C, 0x1D, 0x1E,
  0x1F, 0x20, 0x30, 0x31, 0x38, 0x39, 0x3A, 0x3B, 0x3C, 0x40, 0x41, 0x42, 0x50, 0x51, 0x52]

/-- The operations that answer with one field of the header (R140), which are the slots of `HDR.ALL` (R159). -/
def headerFields : List Instr := [
  .hdrEntry, .hdrLogo, .hdrTitle, .hdrManuf, .hdrCgb, .hdrNewlic, .hdrSgb, .hdrCtype, .hdrRomsz, .hdrRamsz, .hdrDest,
  .hdrOldlic, .hdrVer, .hdrHchk, .hdrGchk, .hdrLicensee]

/-- Whether each of the sixteen slots of a Cartridge record holds a value, in slot order (R159). -/
def slotsOk (c : Cartridge) : List Bool := [
  c.entry.isOk, c.logo.isOk, c.title.isOk, c.manuf.isOk, c.cgb.isOk, c.newlic.isOk, c.sgb.isOk, c.ctype.isOk,
  c.romsz.isOk, c.ramsz.isOk, c.dest.isOk, c.oldlic.isOk, c.ver.isOk, c.hchk.isOk, c.gchk.isOk, c.licensee.isOk]

/-- A BoundsError, of whichever sub-kind (R281, R282). -/
def IsBounds (e : ErrRec) : Prop := ∃ sub, e.kind = .bounds sub

/-- The order of the keys: at the first position where they differ, the unsigned bytes decide (R241). -/
def KeyBefore (a b : List Byte) : Prop :=
  ∃ (k : Nat) (x y : Byte), (∀ j, j < k → a[j]? = b[j]?) ∧ a[k]? = some x ∧ b[k]? = some y ∧ x.toNat < y.toNat

/-- The set after `EPD.INSERT` of the image in the buffer `m`, the set before it being that of `s` (R240). -/
def afterInsert (s : State) (m : Memory) : State :=
  match exec .epdInsert { s with mem := m } with
  | .next t => { s with keys := t.keys }
  | _ => s

/-- The byte of an index as a number, 0 where there is none. -/
def byteNat (s : State) (a : Nat) : Nat := (Memory.read s.mem a).elim 0 BitVec.toNat

end Sys2Proof.Spec

open Sys2Proof Sys2Proof.Machine Sys2Proof.Spec

/-! ## Encoding and the step -/

/-- Request frames (R82; the layout of arguments is log entry 4): a frame decodes to `i` exactly when it is
the encoding of `i`, a well-formed request, followed by what is left. -/
def Obligations.RequestsDecodeAndEncode : Prop :=
  ∀ (p : Params) (bs rest : List Byte) (i : Instr),
    decodeRequest bs = .ok (i, rest) ↔ i.isRequest = true ∧ i.wf p = true ∧ bs = encode p i ++ rest

/-- Target-stream classes (R86, R87, R231, R236 to R238), under any opcode tables. -/
def Obligations.TargetDecodeAndEncode : Prop :=
  ∀ (p : Params) (bs rest : List Byte) (i : Instr),
    decodeTarget p bs = .ok (i, rest) ↔ i.isRequest = false ∧ i.wf p = true ∧ bs = encode p i ++ rest

/-- Words written out from R82, R89, R236 and R237; the arguments of the four with arguments are laid out by
log entry 4. -/
def Obligations.SampleWordsDecode : Prop :=
  decodeFrame [0x11] = .ok .hdrLogo ∧ decodeFrame [0x20] = .ok .hdrAll ∧ decodeFrame [0x30] = .ok .chkHdr ∧
  decodeFrame [0x3C] = .ok .valAll ∧ decodeFrame [0x41] = .ok .disStep ∧ decodeFrame [0x51] = .ok .epdInsert ∧
  decodeFrame [0x01, 0x47, 0x01] = .ok (.bufGetb 0x0147) ∧ decodeFrame [0x40, 0x01] = .ok (.disStart .permissive) ∧
  decodeFrame [0x02, 0x01, 0x02, 0x00, 0x02, 0x03, 0x00] = .ok (.bufGetr ⟨.fromIdx 2, .toIncl 3⟩) ∧
  decodeFrame [0x00, 0x01, 0x00, 0x00, 0x00, 0xAB, 0x00, 0x00, 0x00, 0x00] = .ok (.bufLoad [0xAB] []) ∧
  ∀ p, decodeTarget p [0x00] = .ok (.nop, []) ∧ decodeTarget p [0xC3, 0x50, 0x01] = .ok (.jpA16 0x0150, [])

/-- A step serves the oldest waiting request, and with none the block idles and keeps all state (R63, R298;
the queue is log entry 3). -/
def Obligations.StepServesTheOldestRequest : Prop :=
  (∀ s : State, s.inbox = [] → step s = .next s) ∧
  ∀ (s : State) (frame : List Byte) (rest : List (List Byte)) (i : Instr), s.inbox = frame :: rest →
    decodeFrame frame = .ok i → step s = exec i { s with inbox := rest }

/-- R99: an operation code outside the table is refused with its code and no state changes; so is `BUF.PUTR`
when `BUF_RW` is false (the queue and the place of the response are log entry 3). -/
def Obligations.UndefinedRequestsAreRefused : Prop :=
  (∀ (s : State) (op : Byte) (args : List Byte) (rest : List (List Byte)), op ∉ opCodes → s.inbox = (op :: args) :: rest →
    ∃ e, step s = .next { s with inbox := rest, resp := some (.err e) } ∧ e.kind = .refused .undefinedOp ∧
      e.code = op.setWidth 16) ∧
  ∀ (s : State) (r : RangeArg) (data : List Byte), s.par.bufRw = false →
    Fails (.bufPutr r data) s fun e => e.kind = .refused .notWritable

/-- The bytes at `I` decode to a class of the target stream: `DIS.STEP` is that class's meaning (R87, R226). -/
def Obligations.DisStepRunsTheDecodedInstruction : Prop :=
  ∀ (s : State) (i : Instr) (rest : List Byte), decodeTarget s.par (s.buf.drop s.i) = .ok (i, rest) →
    exec .disStep s = exec i s

/-- R310: after reset every item of state is empty or zero, strict, IDLE, whatever the parameters are. -/
def Obligations.ResetIsEmpty : Prop :=
  (∃ p, State.reset = State.resetWith p) ∧
  ∀ p, (State.resetWith p).mem = [] ∧ (State.resetWith p).len = 0 ∧ (State.resetWith p).name = [] ∧
    (State.resetWith p).i = 0 ∧ (State.resetWith p).mode = .strict ∧ (State.resetWith p).status = .idle ∧
    (State.resetWith p).err = none ∧ (State.resetWith p).out = [] ∧ (State.resetWith p).dwarn = [] ∧
    (State.resetWith p).keys = []

/-- The reset state meets the invariant, whatever the parameters are. -/
def Obligations.ResetMeetsTheInvariant : Prop := State.reset.Inv ∧ ∀ p, (State.resetWith p).Inv

/-- Every step keeps the invariant: the buffer canonical and at most 65536 bytes (R21), `I ≤ LEN` (R26),
`ERR` present exactly in ERROR (R32), the records tiling the indices below `I` (R233), every record of the
shape of R84 to R92 and R231, one warning for each sentinel (R33), the keys without duplicates (R35). -/
def Obligations.StepKeepsTheInvariant : Prop := ∀ s t : State, s.Inv → step s = .next t → t.Inv

/-- From any state, with any requests waiting, the block neither faults nor refuses (R292, R232; frames that
hold no request are log entry 4). -/
def Obligations.TheBlockNeverStops : Prop :=
  ∀ (n : Nat) (s : State), (∀ f ∈ s.inbox, answerable f = true) → SafeRun n s

/-! ## The buffer -/

/-- `BUF.LOAD` (R120). That a load sets `MODE` to strict (R311, decision D34) is the model's choice, where R120, R30 and
R313 leave `MODE` as it was: log entry 11. The `index` of a refusal is claimed where 17 bits hold it (log
entry 6). -/
def Obligations.BufLoadInstallsTheImage : Prop :=
  ∀ (image : List Byte) (name : Text) (s : State),
    (image.length ≤ 65536 → ∃ m : Memory,
      exec (.bufLoad image name) s = .next { s with mem := m, name := name, i := 0, mode := .strict, status := .idle, err := none, out := [], dwarn := [], resp := some (.ok .unit []) } ∧
      m.length = image.length ∧ m.wf ∧ ∀ a, Memory.read m a = image[a]?) ∧
    (65536 < image.length → Fails (.bufLoad image name) s fun e => e.kind = .refused .loadTooLong ∧
      (image.length < 131072 → e.index = BitVec.ofNat 17 image.length))

/-- R121: `BUF.GETB`. -/
def Obligations.BufGetbReadsOneByte : Prop :=
  ∀ (index : Half) (s : State),
    (index.toNat < s.len → ∃ b, Memory.read s.mem index.toNat = some b ∧
      Replies (.bufGetb index) s (.ok (.byte b) [])) ∧
    (s.len ≤ index.toNat → Fails (.bufGetb index) s (BoundsRec .index .rangeArgument index.toNat s.len))

/-- R83, R122, R123: `BUF.GETR`. -/
def Obligations.BufGetrReadsTheRange : Prop :=
  ∀ (r : RangeArg) (s : State) (a e : Nat), Resolves s.len r a e →
    RangeErrors (.bufGetr r) a e s ∧
    (a < s.len → a ≤ e → e ≤ s.len → ∃ l, l.length = e - a ∧ BytesAt s a l ∧
      Replies (.bufGetr r) s (.ok (.bytes l) []))

/-- R83, R122, R124: `BUF.PUTR`. The written bytes are those from the resolved start on; every other byte reads as
before. -/
def Obligations.BufPutrReplacesTheRange : Prop :=
  ∀ (r : RangeArg) (data : List Byte) (s : State) (a e : Nat), Resolves s.len r a e →
    (s.par.bufRw = false → Fails (.bufPutr r data) s fun x => x.kind = .refused .notWritable) ∧
    (s.par.bufRw = true → RangeErrors (.bufPutr r data) a e s) ∧
    (s.par.bufRw = true → a < s.len → a ≤ e → e ≤ s.len → data.length ≠ e - a →
      Fails (.bufPutr r data) s fun x => x.kind = .bounds .lengthMismatch ∧ x.field = .rangeArgument ∧
        x.code = BitVec.ofNat 16 (e - a) ∧
        x.index = (if data.length < 131072 then BitVec.ofNat 17 data.length else 0x1FFFF)) ∧
    (s.par.bufRw = true → a < s.len → a ≤ e → e ≤ s.len → data.length = e - a → ∃ m : Memory,
      exec (.bufPutr r data) s = .next { s with mem := m, resp := some (.ok .unit []) } ∧ m.length = s.mem.length ∧
      (∀ k, k < data.length → Memory.read m (a + k) = data[k]?) ∧
      ∀ k, (k < a ∨ a + data.length ≤ k) → Memory.read m k = Memory.read s.mem k)

/-- A write is seen by every later read, with no fence (R63, R65): reading the range of a write that succeeded gives
the data written. -/
def Obligations.WritesAreSeenByReads : Prop :=
  ∀ (r : RangeArg) (data : List Byte) (s t : State), exec (.bufPutr r data) s = .next t →
    t.resp = some (.ok .unit []) → Replies (.bufGetr r) t (.ok (.bytes data) [])

/-! ## The header -/

/-- R141, R142, R150: the three fields that are byte sequences. -/
def Obligations.HdrByteSequences : Prop :=
  ∀ s : State, ReadsField .hdrEntry 0x0100 4 .entryPoint s ∧ ReadsField .hdrLogo 0x0104 48 .logo s ∧
    ReadsField .hdrNewlic 0x0144 2 .newLicensee s

/-- R156, R157, R158: the raw bytes and the stored checksums. -/
def Obligations.HdrRawBytesAndChecksums : Prop :=
  ∀ s : State,
    (∀ b, Memory.read s.mem 0x014B = some b → Replies .hdrOldlic s (.ok (.byte b) [])) ∧
    MissesByte .hdrOldlic 0x014B .oldLicensee s ∧
    (∀ b, Memory.read s.mem 0x014C = some b → Replies .hdrVer s (.ok (.byte b) [])) ∧
    MissesByte .hdrVer 0x014C .version s ∧
    (∀ b, Memory.read s.mem 0x014D = some b → Replies .hdrHchk s (.ok (.byte b) [])) ∧
    MissesByte .hdrHchk 0x014D .headerChecksum s ∧
    (∀ g0 g1, Memory.read s.mem 0x014E = some g0 → Memory.read s.mem 0x014F = some g1 →
      Replies .hdrGchk s (.ok (.half (g0 ++ g1)) [])) ∧
    (s.len ≤ 0x014E → Fails .hdrGchk s (BoundsRec .start .globalChecksum 0x014E s.len)) ∧
    (s.len = 0x014F → Fails .hdrGchk s (BoundsRec .stop .globalChecksum 0x0150 s.len))

/-- R149, R151, R184, R185: the CGB flag and the SGB flag. -/
def Obligations.HdrCgbAndSgbFlags : Prop :=
  ∀ s : State,
    (∀ b, Memory.read s.mem 0x0143 = some b →
      (b = 0x80 → Replies .hdrCgb s (.ok (.cgb .compat) [])) ∧ (b = 0xC0 → Replies .hdrCgb s (.ok (.cgb .cgbOnly) [])) ∧
      (b = 0x88 ∨ b = 0x84 → Replies .hdrCgb s (.ok (.cgb .pgbMode) [])) ∧
      (b ∉ [0x80, 0xC0, 0x88, 0x84] → Replies .hdrCgb s (.ok (.cgb .none) []))) ∧
    MissesByte .hdrCgb 0x0143 .cgbFlag s ∧
    (∀ b, Memory.read s.mem 0x0146 = some b → Replies .hdrSgb s (.ok (.bit (b == 0x03)) [])) ∧
    MissesByte .hdrSgb 0x0146 .sgbFlag s

/-- R152, R174 to R176: the cartridge type, under every instantiation of `CTYPE_ROM`. The two pinned rows are the
words 0x0020 and 0x001B. -/
def Obligations.HdrCartridgeType : Prop :=
  (∀ (s : State) (b : Byte), Memory.read s.mem 0x0147 = some b →
    (∀ w, ctypeRom s.par b = some w → Replies .hdrCtype s (.ok (.ctype w) [])) ∧
    (ctypeRom s.par b = none →
      Fails .hdrCtype s (CodeRec .unknownTableCode .cartridgeType (b.setWidth 16) 0x0147))) ∧
  (∀ s : State, MissesByte .hdrCtype 0x0147 .cartridgeType s) ∧
  ∀ p : Params, (ctypeRom p 0x00).map packCtype = some 0x0020 ∧ (ctypeRom p 0x13).map packCtype = some 0x001B ∧
    ∀ b : Byte, 0x23 ≤ b.toNat → b.toNat ≤ 0xFB → ctypeRom p b = none

/-- The packing of R96 loses nothing, and a word is read back exactly when it is well-formed (R177). -/
def Obligations.CartridgeTypePacks : Prop :=
  (∀ t : CartridgeType, unpackCtype (packCtype t) = some t) ∧
  (∀ (w : Half) (t : CartridgeType), unpackCtype w = some t → packCtype t = w) ∧
  ∀ w : Half, unpackCtype w = none ↔ (w.getLsbD 15 = true ∨ w.getLsbD 14 = true ∨ w.extractLsb' 0 3 = 4)

/-- R153, R154, R178 to R180: the ROM size and the RAM size. -/
def Obligations.HdrRomAndRamSizes : Prop :=
  ∀ s : State,
    (∀ b, Memory.read s.mem 0x0148 = some b →
      (b.toNat ≤ 8 → Replies .hdrRomsz s (.ok (.romBytes (BitVec.ofNat 24 (32768 * 2 ^ b.toNat))) [])) ∧
      (b = 0x52 → Replies .hdrRomsz s (.ok (.romBytes 1179648) [])) ∧
      (b = 0x53 → Replies .hdrRomsz s (.ok (.romBytes 1310720) [])) ∧
      (b = 0x54 → Replies .hdrRomsz s (.ok (.romBytes 1572864) [])) ∧
      (8 < b.toNat → b ∉ [0x52, 0x53, 0x54] →
        Fails .hdrRomsz s (CodeRec .unknownTableCode .romSize (b.setWidth 16) 0x0148))) ∧
    MissesByte .hdrRomsz 0x0148 .romSize s ∧
    (∀ b, Memory.read s.mem 0x0149 = some b →
      (b = 0x00 → Replies .hdrRamsz s (.ok (.ramBytes 0) [])) ∧ (b = 0x01 → Replies .hdrRamsz s (.ok (.ramBytes 2048) [])) ∧
      (b = 0x02 → Replies .hdrRamsz s (.ok (.ramBytes 8192) [])) ∧
      (b = 0x03 → Replies .hdrRamsz s (.ok (.ramBytes 32768) [])) ∧
      (b = 0x04 → Replies .hdrRamsz s (.ok (.ramBytes 131072) [])) ∧
      (b = 0x05 → Replies .hdrRamsz s (.ok (.ramBytes 65536) [])) ∧
      (5 < b.toNat → Warns .hdrRamsz s (.ramBytes 0) (CodeRec .degradedTableCode .ramSize (b.setWidth 16) 0x0149))) ∧
    MissesByte .hdrRamsz 0x0149 .ramSize s

/-- R155, R183: the destination, under every instantiation of `DEST_ROM`. -/
def Obligations.HdrDestination : Prop :=
  ∀ s : State,
    (∀ b, Memory.read s.mem 0x014A = some b →
      (destRom s.par b = some .japan → Replies .hdrDest s (.ok (.dest .japan) [])) ∧
      (destRom s.par b = some .overseas → Replies .hdrDest s (.ok (.dest .overseas) [])) ∧
      (destRom s.par b = none →
        Warns .hdrDest s (.dest .unknown) (CodeRec .degradedTableCode .destination (b.setWidth 16) 0x014A))) ∧
    MissesByte .hdrDest 0x014A .destination s

/-- R144 to R146, R148: the title is the effective part of the region less its trailing zeros, or InvalidText at
its first byte of 0x80 or above. -/
def Obligations.HdrTitleDecodes : Prop :=
  ∀ s : State,
    (∀ (t : List Byte) (n : Nat), t.length = 16 → BytesAt s 0x0134 t → TitleLength t n →
      ∃ l, Trimmed (t.take n) l ∧
        ((∀ b ∈ l, b.toNat < 0x80) → Replies .hdrTitle s (.ok (.bytes l) [])) ∧
        ∀ k b, l[k]? = some b → 0x80 ≤ b.toNat → (∀ j c, j < k → l[j]? = some c → c.toNat < 0x80) →
          Fails .hdrTitle s (CodeRec .invalidText .title (b.setWidth 16) (0x0134 + k))) ∧
    (s.len ≤ 0x0134 → Fails .hdrTitle s (BoundsRec .start .title 0x0134 s.len)) ∧
    (0x0134 < s.len → s.len < 0x0144 → Fails .hdrTitle s (BoundsRec .stop .title 0x0144 s.len))

/-- R147: the manufacturer code is there exactly when all four bytes are upper-case letters or digits. -/
def Obligations.HdrManufacturerDecodes : Prop :=
  ∀ s : State,
    (∀ t : List Byte, t.length = 16 → BytesAt s 0x0134 t →
      (ManufPresent t → ∃ l, l.length = 4 ∧ BytesAt s 0x013F l ∧ Replies .hdrManuf s (.ok (.bytesOption (some l)) [])) ∧
      (¬ManufPresent t → Replies .hdrManuf s (.ok (.bytesOption none) []))) ∧
    (s.len ≤ 0x0134 → Fails .hdrManuf s (BoundsRec .start .manufacturer 0x0134 s.len)) ∧
    (0x0134 < s.len → s.len < 0x0144 → Fails .hdrManuf s (BoundsRec .stop .manufacturer 0x0144 s.len))

/-- R171 to R173: the licensee, under every instantiation of the two tables. The old byte 0x33 selects the new table,
and there is no fallback; the pinned row of the old one is "Nintendo" at 0x01. -/
def Obligations.HdrLicenseeResolves : Prop :=
  (∀ p : Params, oldLicRom p 0x01 = some (text "Nintendo")) ∧
  ∀ s : State,
    (∀ o, Memory.read s.mem 0x014B = some o → o ≠ 0x33 →
      (∀ n, oldLicRom s.par o = some n → Replies .hdrLicensee s (.ok (.licensee ⟨.old, o, 0, true, n⟩) [])) ∧
      (oldLicRom s.par o = none → Warns .hdrLicensee s (.licensee ⟨.old, o, 0, false, []⟩)
        (CodeRec .degradedTableCode .oldLicensee (o.setWidth 16) 0x014B))) ∧
    (∀ c0 c1, Memory.read s.mem 0x014B = some 0x33 → Memory.read s.mem 0x0144 = some c0 →
      Memory.read s.mem 0x0145 = some c1 →
      (∀ n, newLicRom s.par (c0 ++ c1) = some n →
        Replies .hdrLicensee s (.ok (.licensee ⟨.new, 0x33, c0 ++ c1, true, n⟩) [])) ∧
      (newLicRom s.par (c0 ++ c1) = none → Warns .hdrLicensee s (.licensee ⟨.new, 0x33, c0 ++ c1, false, []⟩)
        (CodeRec .degradedTableCode .newLicensee (c0 ++ c1) 0x0144))) ∧
    MissesByte .hdrLicensee 0x014B .licensee s

/-- R159, with the second sentence of R160: `HDR.ALL` never fails; its slots are the responses of the sixteen
operations, `diags` their warnings and errors in that order, and `usable` says that the cartridge type and
the ROM size decoded. -/
def Obligations.HdrAllCollectsEverySlot : Prop :=
  ∀ s : State, ∃ c d, Replies .hdrAll s (.ok (.cartridge c) d) ∧
    Replies .hdrEntry s (c.entry.map .bytes) ∧ Replies .hdrLogo s (c.logo.map .bytes) ∧
    Replies .hdrTitle s (c.title.map .bytes) ∧ Replies .hdrManuf s (c.manuf.map .bytesOption) ∧
    Replies .hdrCgb s (c.cgb.map .cgb) ∧ Replies .hdrNewlic s (c.newlic.map .bytes) ∧
    Replies .hdrSgb s (c.sgb.map .bit) ∧ Replies .hdrCtype s (c.ctype.map .ctype) ∧
    Replies .hdrRomsz s (c.romsz.map .romBytes) ∧ Replies .hdrRamsz s (c.ramsz.map .ramBytes) ∧
    Replies .hdrDest s (c.dest.map .dest) ∧ Replies .hdrOldlic s (c.oldlic.map .byte) ∧
    Replies .hdrVer s (c.ver.map .byte) ∧ Replies .hdrHchk s (c.hchk.map .byte) ∧
    Replies .hdrGchk s (c.gchk.map .half) ∧ Replies .hdrLicensee s (c.licensee.map .licensee) ∧
    (c.usable = true ↔ c.ctype.isOk = true ∧ c.romsz.isOk = true) ∧
    d = c.entry.notes ++ c.logo.notes ++ c.title.notes ++ c.manuf.notes ++ c.cgb.notes ++ c.newlic.notes ++
      c.sgb.notes ++ c.ctype.notes ++ c.romsz.notes ++ c.ramsz.notes ++ c.dest.notes ++ c.oldlic.notes ++
      c.ver.notes ++ c.hchk.notes ++ c.gchk.notes ++ c.licensee.notes

/-! ## Checksums and validation -/

/-- R200: `CHK.HDR` is the recurrence over the 25 bytes, in order, from 0. -/
def Obligations.ChkHdrRecurrence : Prop :=
  ∀ s : State,
    (0x014D ≤ s.len → ∃ h : List Byte, h.length = 25 ∧ BytesAt s 0x0134 h ∧
      Replies .chkHdr s (.ok (.byte (h.foldl (fun x b => x - b - 1) 0)) [])) ∧
    (s.len ≤ 0x0134 → Fails .chkHdr s (BoundsRec .start .headerChecksum 0x0134 s.len)) ∧
    (0x0134 < s.len → s.len < 0x014D → Fails .chkHdr s (BoundsRec .stop .headerChecksum 0x014D s.len))

/-- The closed form of `CHK.HDR`, and its sensitivity: two buffers that differ in exactly one of the 25 bytes
have different header checksums (R201, which the spec marks as derived). -/
def Obligations.ChkHdrSeesEveryByte : Prop :=
  (∀ (s : State) (h : List Byte), h.length = 25 → BytesAt s 0x0134 h →
    Replies .chkHdr s (.ok (.byte (0xE7 - BitVec.ofNat 8 (h.map BitVec.toNat).sum)) [])) ∧
  ∀ (s t : State) (k : Nat) (x y : Byte), 0x0134 ≤ k → k ≤ 0x014C →
    (∀ j, 0x0134 ≤ j → j ≤ 0x014C → j ≠ k → Memory.read s.mem j = Memory.read t.mem j) →
    Memory.read s.mem k ≠ Memory.read t.mem k →
    Replies .chkHdr s (.ok (.byte x) []) → Replies .chkHdr t (.ok (.byte y) []) → x ≠ y

/-- R202: `CHK.GLB`, over every byte but the two checksum bytes, or over 0x0100 to 0x014D. -/
def Obligations.ChkGlbSums : Prop :=
  ∀ s : State,
    (s.par.gchkRange = .whole → Replies .chkGlb s (.ok (.half (BitVec.ofNat 16
      (((List.range s.len).filter fun a => a ≠ 0x014E ∧ a ≠ 0x014F).map (byteNat s)).sum)) [])) ∧
    (s.par.gchkRange = .header → 0x014E ≤ s.len → Replies .chkGlb s (.ok (.half (BitVec.ofNat 16
      ((List.range' 0x0100 78).map (byteNat s)).sum)) [])) ∧
    (s.par.gchkRange = .header → s.len ≤ 0x0100 → Fails .chkGlb s (BoundsRec .start .globalChecksum 0x0100 s.len)) ∧
    (s.par.gchkRange = .header → 0x0100 < s.len → s.len < 0x014E →
      Fails .chkGlb s (BoundsRec .stop .globalChecksum 0x014E s.len))

/-- R205: `VAL.LOGO`, with the fields of R95 (0 for a check that is no checksum). -/
def Obligations.ValLogoCompares : Prop :=
  ∀ s : State,
    (s.len < 0x0134 → ∃ e, Replies .hdrLogo s (.err e) ∧
      Replies .valLogo s (.ok (.check ⟨.logo, false, .undecodable, 0, 0, some e⟩) [])) ∧
    (0x0134 ≤ s.len → ∃ l, l.length = 48 ∧ BytesAt s 0x0104 l ∧
      (l = s.par.logoRef.toList → Replies .valLogo s (.ok (.check ⟨.logo, true, .none, 0, 0, none⟩) [])) ∧
      (l ≠ s.par.logoRef.toList → Replies .valLogo s (.ok (.check ⟨.logo, false, .logoMismatch, 0, 0, none⟩) [])))

/-- `VAL.RAM` (R206). That the response has no diags, also where an unlisted RAM-size code gave a warning (R13), is
the model's choice: log entry 12. -/
def Obligations.ValRamConsistency : Prop :=
  ∀ s : State, ∃ c, Replies .valRam s (.ok (.check c) []) ∧
    (∀ e, Replies .hdrCtype s (.err e) → c = ⟨.ram, false, .undecodable, 0, 0, some e⟩) ∧
    (∀ w e, Replies .hdrCtype s (.ok (.ctype w) []) → Replies .hdrRamsz s (.err e) →
      c = ⟨.ram, false, .undecodable, 0, 0, some e⟩) ∧
    ∀ w size d, Replies .hdrCtype s (.ok (.ctype w) []) → Replies .hdrRamsz s (.ok (.ramBytes size) d) →
      (w.ram = true → size = 0 → c = ⟨.ram, false, .ramFlagWithoutSize, 0, 0, none⟩) ∧
      (w.ram = false → size ≠ 0 → c = ⟨.ram, false, .ramSizeWithoutFlag, 0, 0, none⟩) ∧
      (w.ram = true → size ≠ 0 → c = ⟨.ram, true, .none, 0, 0, none⟩) ∧
      (w.ram = false → size = 0 → c = ⟨.ram, true, .none, 0, 0, none⟩)

/-- R207: `VAL.HCHK`. -/
def Obligations.ValHeaderChecksum : Prop :=
  ∀ s : State, ∃ c, Replies .valHchk s (.ok (.check c) []) ∧ c.check = .headerChecksum ∧
    (∀ e, Replies .chkHdr s (.err e) → c.pass = false ∧ c.reason = .undecodable ∧ c.cause = some e) ∧
    (∀ x e, Replies .chkHdr s (.ok (.byte x) []) → Replies .hdrHchk s (.err e) →
      c.pass = false ∧ c.reason = .undecodable ∧ c.cause = some e) ∧
    ∀ x y, Replies .chkHdr s (.ok (.byte x) []) → Replies .hdrHchk s (.ok (.byte y) []) →
      c.computed = x.setWidth 16 ∧ c.stored = y.setWidth 16 ∧
      (x = y → c.pass = true ∧ c.reason = .none ∧ c.cause = none) ∧
      (x ≠ y → c.pass = false ∧ c.reason = .checksumMismatch ∧
        ∃ e, c.cause = some e ∧ CodeRec .checksumMismatch .headerChecksum (y.setWidth 16) 0x014D e)

/-- R208: `VAL.GCHK`. -/
def Obligations.ValGlobalChecksum : Prop :=
  ∀ s : State, ∃ c, Replies .valGchk s (.ok (.check c) []) ∧ c.check = .globalChecksum ∧
    (∀ e, Replies .chkGlb s (.err e) → c.pass = false ∧ c.reason = .undecodable ∧ c.cause = some e) ∧
    (∀ x e, Replies .chkGlb s (.ok (.half x) []) → Replies .hdrGchk s (.err e) →
      c.pass = false ∧ c.reason = .undecodable ∧ c.cause = some e) ∧
    ∀ x y, Replies .chkGlb s (.ok (.half x) []) → Replies .hdrGchk s (.ok (.half y) []) →
      c.computed = x ∧ c.stored = y ∧ (x = y → c.pass = true ∧ c.reason = .none ∧ c.cause = none) ∧
      (x ≠ y → c.pass = false ∧ c.reason = .checksumMismatch ∧
        ∃ e, c.cause = some e ∧ CodeRec .checksumMismatch .globalChecksum y 0x014E e)

/-- `VAL.ALL` reports the four checks, and the global one is no term of the verdict (R209). That the response has no
diags, also where an unlisted RAM-size code gave a warning (R13), is the model's choice: log entry 12. -/
def Obligations.ValAllReports : Prop :=
  ∀ s : State, ∃ l r h g, Replies .valLogo s (.ok (.check l) []) ∧ Replies .valRam s (.ok (.check r) []) ∧
    Replies .valHchk s (.ok (.check h) []) ∧ Replies .valGchk s (.ok (.check g) []) ∧
    Replies .valAll s (.ok (.report ⟨l, r, h, g, l.pass && r.pass && h.pass⟩) [])

/-- The BUF reads and every HDR, CHK and VAL operation are functions of the buffer and the parameters: two states
that agree on those get the same response, and nothing but the response changes (R34, R140, R212). -/
def Obligations.ReadersDependOnTheBufferOnly : Prop :=
  ∀ (i : Instr) (s t : State), readsOnly i = true → s.mem = t.mem → s.par = t.par →
    ∃ r, Replies i s r ∧ Replies i t r

/-- A response can be had again: whatever operations other than `BUF.LOAD` and `BUF.PUTR` lie between, the same
request gets the same response (R160, R34, R61). -/
def Obligations.ResponsesAreRepeatable : Prop :=
  ∀ (i : Instr) (l : List Instr) (s t : State) (r : Response), readsOnly i = true →
    (∀ j ∈ l, writesBuffer j = false) → Runs l s t → Replies i s r → Replies i t r

/-! ## The disassembler -/

/-- R224: `DIS.START`, in every status. -/
def Obligations.DisStartBeginsARun : Prop :=
  ∀ (m : Mode) (s : State), exec (.disStart m) s = .next { started m s with resp := some (.ok .unit []) }

/-- `DIS.STEP` outside a run is refused and changes nothing; at the end of the buffer the run is DONE; and only
`DIS.START`, `DIS.RUN` and `BUF.LOAD` leave DONE and ERROR (R226, R232). -/
def Obligations.DisStepGuards : Prop :=
  (∀ s : State, s.status ≠ .running → Fails .disStep s fun e => e.kind = .refused .notRunning) ∧
  (∀ s : State, s.status = .running → s.i = s.len →
    exec .disStep s = .next { s with status := .done, resp := some (.ok (.stepEnd .done) []) }) ∧
  ∀ (i : Instr) (s t : State), s.status = .done ∨ s.status = .error → exec i s = .next t →
    t.status = s.status ∨ startsAnew i = true

/-- R227, by R226 and R88 to R90: a standard opcode with an entry and all its operand bytes. -/
def Obligations.DisStepStandardPath : Prop :=
  ∀ (s : State) (op : Byte) (ent : OpEntry) (v : Half), s.status = .running → Memory.read s.mem s.i = some op →
    op ≠ 0xCB → opromStd s.par op = some ent → s.i + 1 + count ent.nops ≤ s.len → OperandAt s (s.i + 1) ent.nops v →
    exec .disStep s = .next (emitted s (instrRec false op ent v))

/-- R228, by R226 and R88 to R90: a prefixed opcode with an entry and all its operand bytes; the byte after the
escape byte may itself be 0xCB. -/
def Obligations.DisStepPrefixedPath : Prop :=
  ∀ (s : State) (op : Byte) (ent : OpEntry) (v : Half), s.status = .running → Memory.read s.mem s.i = some 0xCB →
    Memory.read s.mem (s.i + 1) = some op → opromCb s.par op = some ent → s.i + 2 + count ent.nops ≤ s.len →
    OperandAt s (s.i + 2) ent.nops v → exec .disStep s = .next (emitted s (instrRec true op ent v))

/-- R229: a lone escape byte, or operand bytes that are not all there, end the run in ERROR in both modes. -/
def Obligations.DisStepInsufficientBytes : Prop :=
  (∀ s : State, s.status = .running → Memory.read s.mem s.i = some 0xCB → s.len ≤ s.i + 1 →
    FailsRun .disStep s (MissingRec s .index .prefixedOpcode (s.i + 1) true)) ∧
  ∀ (s : State) (pre : Bool) (op : Byte) (ent : OpEntry), s.status = .running → OpcodeAt s pre op →
    entryOf s pre op = some ent → MissingOperand .disStep s pre ent

/-- An opcode with no entry ends a strict run; in a permissive one the sentinel for the byte at `I` is emitted and the
same record is the warning, appended to `DWARN` (R226, R230, R231). That the response of the permissive step has no
diags (R13) is the model's choice: log entry 12. -/
def Obligations.DisStepUnknownOpcode : Prop :=
  ∀ (s : State) (pre : Bool) (op b0 : Byte), s.status = .running → OpcodeAt s pre op → entryOf s pre op = none →
    Memory.read s.mem s.i = some b0 →
    (s.mode = .strict → FailsRun .disStep s (UnknownRec s pre op)) ∧
    (s.mode = .permissive → Substitutes .disStep s b0 (UnknownRec s pre op))

/-- A step reads no byte beyond `I + 3`: two buffers of one length that agree from `I` to `I + 3` give the same
step (R233). -/
def Obligations.DisStepHasNoLookAhead : Prop :=
  ∀ (s t : State) (m : Memory), m.length = s.mem.length →
    (∀ k, k ≤ 3 → Memory.read m (s.i + k) = Memory.read s.mem (s.i + k)) → exec .disStep s = .next t →
    exec .disStep { s with mem := m } = .next { t with mem := m }

/-- R234, with the bound of R232: `DIS.RUN` always completes. It is `DIS.START` and then at most `LEN + 1` steps of
`DIS.STEP`, and answers with `OUT` and `DWARN` when it is DONE and with `ERR` when it is not. -/
def Obligations.DisRunIsStartAndSteps : Prop :=
  ∀ (m : Mode) (s : State), ∃ k u, k ≤ s.len + 1 ∧ Steps k (started m s) u ∧
    ((u.status = .done ∧ exec (.disRun m) s = .next { u with resp := some (.ok (.listing u.out) u.dwarn) }) ∨
      ∃ e, u.status = .error ∧ u.err = some e ∧ exec (.disRun m) s = .next { u with resp := some (.err e) })

/-- A run that is DONE has classified every byte once: the records tile the buffer from 0 to `LEN`, and each
carries the opcode byte that stands at its place (R233, R231). -/
def Obligations.DisRunTilesTheBuffer : Prop :=
  ∀ (m : Mode) (s t : State) (l : List InstrPos) (d : List ErrRec), exec (.disRun m) s = .next t →
    t.resp = some (.ok (.listing l) d) →
    tiles 0 l s.len = true ∧ (l.map fun r => r.instr.length).sum = s.len ∧
    ∀ r ∈ l, recordOk r.instr = true ∧ r.offset + r.instr.length ≤ s.len ∧
      Memory.read s.mem (r.offset + r.instr.prefixed.toNat) = some r.instr.opcode

/-- The corner case of R236: a buffer of zero bytes disassembles to one `NOP` for each byte, in both modes and under
every opcode table. -/
def Obligations.ZeroBytesAreNops : Prop :=
  ∀ (m : Mode) (s : State), (∀ a, a < s.len → Memory.read s.mem a = some 0) →
    ∃ out : List InstrPos, out = (List.range s.len).map (fun a =>
      ⟨a, ⟨0x00, false, false, text "NOP", 1, 0, 0, s.par.nopCycles, s.par.nopFlags &&& 0xF0⟩⟩) ∧
    exec (.disRun m) s = .next { started m s with i := s.len, status := .done, out := out, resp := some (.ok (.listing out) []) }

/-! ## The classes of the target stream (log entry 14) -/

/-- R236: `NOP`. -/
def Obligations.NopEmits : Prop :=
  ∀ s : State, s.status = .running → s.i < s.len → exec .nop s = .next (emitted s
    ⟨0x00, false, false, text "NOP", 1, 0, 0, s.par.nopCycles, s.par.nopFlags &&& 0xF0⟩)

/-- R237: `JP a16`. `I` goes past the instruction and not to the target. -/
def Obligations.JpEmits : Prop :=
  ∀ (a : Half) (s : State), s.status = .running →
    (s.i + 3 ≤ s.len → exec (.jpA16 a) s = .next (emitted s
      ⟨0xC3, false, false, text "JP a16", 3, 2, a, s.par.jpCycles, s.par.jpFlags &&& 0xF0⟩)) ∧
    (s.len = s.i + 1 → FailsRun (.jpA16 a) s (MissingRec s .start .operand (s.i + 1) false)) ∧
    (s.len = s.i + 2 → FailsRun (.jpA16 a) s (MissingRec s .stop .operand (s.i + 3) false))

/-- The class `PREFIX CB` (R228 to R231, R238), the escape byte at `I`, under every opcode table. That the response of
a permissive miss has no diags is the model's choice: log entry 12. -/
def Obligations.PrefixCbEmits : Prop :=
  ∀ (o l h : Byte) (s : State), s.status = .running →
    (s.len = s.i + 1 → FailsRun (.prefixCb o l h) s (MissingRec s .index .prefixedOpcode (s.i + 1) true)) ∧
    (s.i + 2 ≤ s.len → opromCb s.par o = none →
      (s.mode = .strict → FailsRun (.prefixCb o l h) s (UnknownRec s true o)) ∧
      (s.mode = .permissive → Substitutes (.prefixCb o l h) s 0xCB (UnknownRec s true o))) ∧
    ∀ ent, s.i + 2 ≤ s.len → opromCb s.par o = some ent →
      MissingOperand (.prefixCb o l h) s true ent ∧
      (s.i + 2 + count ent.nops ≤ s.len →
        (ent.nops = .zero → exec (.prefixCb o l h) s = .next (emitted s (instrRec true o ent 0))) ∧
        (ent.nops = .one → exec (.prefixCb o l h) s = .next (emitted s (instrRec true o ent (l.setWidth 16)))) ∧
        (ent.nops = .two → exec (.prefixCb o l h) s = .next (emitted s (instrRec true o ent (h ++ l)))))

/-- The class `UNKNOWN` (R230, R231). That the response of the permissive step has no diags is the model's choice: log
entry 12. -/
def Obligations.UnknownEmits : Prop :=
  ∀ (x : Byte) (s : State), s.status = .running → s.i < s.len →
    (s.mode = .strict → FailsRun (.unknown x) s (UnknownRec s false x)) ∧
    (s.mode = .permissive → Substitutes (.unknown x) s x (UnknownRec s false x))

/-! ## The deduplication set -/

/-- R240: `EPD.INSERT`. -/
def Obligations.EpdInsertAddsTheEntryPoint : Prop :=
  ∀ s : State,
    (0x0104 ≤ s.len → ∃ k keys new, k.length = 4 ∧ BytesAt s 0x0100 k ∧
      exec .epdInsert s = .next { s with keys := keys, resp := some (.ok (.bit new) []) } ∧
      (new = true ↔ k ∉ s.keys) ∧ ∀ x, x ∈ keys ↔ x = k ∨ x ∈ s.keys) ∧
    (s.len ≤ 0x0100 → Fails .epdInsert s (BoundsRec .start .entryPoint 0x0100 s.len)) ∧
    (0x0100 < s.len → s.len < 0x0104 → Fails .epdInsert s (BoundsRec .stop .entryPoint 0x0104 s.len))

/-- R239, R241: `EPD.CLEAR` empties the set; `EPD.SORTED` answers with the keys of the set, ascending, each once. -/
def Obligations.EpdClearAndSorted : Prop :=
  (∀ s : State, exec .epdClear s = .next { s with keys := [], resp := some (.ok .unit []) }) ∧
  ∀ s : State, (∀ k ∈ s.keys, k.length = 4) →
    ∃ l, Replies .epdSorted s (.ok (.keys l) []) ∧ l.Pairwise KeyBefore ∧ ∀ k, k ∈ l ↔ k ∈ s.keys

/-- The set after a batch of inserts does not depend on their order (R242). The order in which images come is all
that an interleaving of instances can change; the premise is part of the invariant. -/
def Obligations.InsertOrderDoesNotMatter : Prop :=
  ∀ (s : State) (l l' : List Memory), keysOk s.keys → l.Perm l' →
    l.foldl afterInsert s = l'.foldl afterInsert s

/-! ## The whole machine -/

/-- Errors are precise (R293): an operation that answers with an error has changed nothing else, but for a step of a
run, which ends it in ERROR and leaves `I`, `OUT` and `DWARN` as they were. -/
def Obligations.ErrorsArePrecise : Prop :=
  ∀ (i : Instr) (s t : State) (e : ErrRec), exec i s = .next t → t.resp = some (.err e) →
    t = { s with resp := some (.err e) } ∨
    (disassembles i = true ∧ (∀ m, i ≠ .disRun m) ∧
      t = { s with status := .error, err := some e, resp := some (.err e) }) ∨
    ∃ m k u, i = .disRun m ∧ Steps k (started m s) u ∧
      t = { u with status := .error, err := some e, resp := some (.err e) }

/-- Which operation writes what (the table of 10_state.md, R23, R25, R30, R33, R35). That `BUF.LOAD`
writes `MODE` (R311, decision D34), and only to strict, is the model's choice, against R30: log entry 11. -/
def Obligations.WhoWritesWhat : Prop :=
  ∀ (i : Instr) (s t : State), exec i s = .next t →
    (writesBuffer i = false → t.mem = s.mem) ∧
    (s.par.bufRw = false → (∀ image name, i ≠ .bufLoad image name) → t.mem = s.mem) ∧
    ((∀ image name, i ≠ .bufLoad image name) → t.len = s.len ∧ t.name = s.name) ∧
    ((∀ m, i ≠ .disStart m) → (∀ m, i ≠ .disRun m) → t.mode = s.mode ∨
      ∃ image name, i = .bufLoad image name ∧ t.mode = .strict) ∧
    (startsAnew i = false → disassembles i = false → t.i = s.i ∧ t.status = s.status ∧ t.err = s.err ∧ t.out = s.out ∧ t.dwarn = s.dwarn) ∧
    (startsAnew i = false → (∃ l, t.out = s.out ++ l) ∧ ∃ l, t.dwarn = s.dwarn ++ l) ∧
    (i ≠ .epdClear → i ≠ .epdInsert → t.keys = s.keys)

/-- No operation and no step writes a parameter (R36, R312), and no operation touches the queue (log entry 3). -/
def Obligations.ParametersNeverChange : Prop :=
  (∀ (i : Instr) (s t : State), exec i s = .next t → t.par = s.par ∧ t.inbox = s.inbox) ∧
  ∀ s t : State, step s = .next t → t.par = s.par

/-- A load forgets everything but `SET` (R311): loads from two states agree on every item of the spec except `SET`.
`BUF.LOAD [], ""` and `EPD.CLEAR` give the reset state (R313), `MODE` included, which is the model's choice: log entry
11. -/
def Obligations.LoadForgetsHistory : Prop :=
  (∀ (image : List Byte) (name : Text) (s t : State), image.length ≤ 65536 → s.par = t.par →
    ∃ u : State, exec (.bufLoad image name) s = .next { u with keys := s.keys, inbox := s.inbox } ∧
      exec (.bufLoad image name) t = .next { u with keys := t.keys, inbox := t.inbox }) ∧
  ∀ s : State, Runs [.bufLoad [] [], .epdClear] s
    { State.resetWith s.par with inbox := s.inbox, resp := some (.ok .unit []) }

/-- What requests before the first load get (R314). -/
def Obligations.BeforeTheFirstLoad : Prop :=
  ∀ s : State, s.mem = [] → s.keys = [] →
    (∀ index, Fails (.bufGetb index) s fun e => e.kind = .bounds .index) ∧
    (∀ r, Fails (.bufGetr r) s fun e => e.kind = .bounds .start) ∧
    (∀ i ∈ headerFields, Fails i s IsBounds) ∧
    (∃ c d, Replies .hdrAll s (.ok (.cartridge c) d) ∧ (∀ ok ∈ slotsOk c, ok = false) ∧ c.usable = false ∧
      d.length = 16 ∧ ∀ e ∈ d, IsBounds e) ∧
    (s.par.gchkRange = .whole → Replies .chkGlb s (.ok (.half 0) [])) ∧
    (∃ r, Replies .valAll s (.ok (.report r) []) ∧ r.pass = false ∧
      ∀ c ∈ [r.logo, r.ram, r.hchk, r.gchk], c.pass = false ∧ c.reason = .undecodable) ∧
    (∀ m, exec (.disRun m) s = .next { started m s with status := .done, resp := some (.ok (.listing []) []) }) ∧
    (Fails .epdInsert s fun e => e.kind = .bounds .start) ∧ Replies .epdSorted s (.ok (.keys []) [])

/-- The status registers of R29, in every state that meets the invariant. -/
def Obligations.StatusRegistersRead : Prop :=
  ∀ s : State, s.Inv →
    s.sr0.toNat = s.len ∧ s.sr1.toNat = s.i ∧ (s.sr2.getLsbD 0 = true ↔ s.mode = .permissive) ∧
    (s.sr2.extractLsb' 1 2 = 0 ↔ s.status = .idle) ∧ (s.sr2.extractLsb' 1 2 = 1 ↔ s.status = .running) ∧
    (s.sr2.extractLsb' 1 2 = 2 ↔ s.status = .done) ∧ (s.sr2.extractLsb' 1 2 = 3 ↔ s.status = .error) ∧
    s.sr3 = s.err ∧ s.sr4.toNat = s.out.length ∧ s.sr5 = s.keys.length

/-- R92: a CpuFlags byte keeps the four flags of the raw byte and none of its low nibble. -/
def Obligations.CpuFlagsMaskTheLowNibble : Prop :=
  ∀ b : Byte, (∀ k, k < 4 → (cpuFlags b).getLsbD k = false) ∧
    hasCpuFlag (cpuFlags b) .zero = b.getLsbD 7 ∧ hasCpuFlag (cpuFlags b) .subtract = b.getLsbD 6 ∧
    hasCpuFlag (cpuFlags b) .halfCarry = b.getLsbD 5 ∧ hasCpuFlag (cpuFlags b) .carry = b.getLsbD 4
end

