-- ==== Sys2Proof/Laws/State.lean ====
section
/-! SUPPORT. The fields of the state after each update of the state: one lemma per field per update. -/

namespace Sys2Proof.Machine

/-! ## `answer` -/

@[simp] theorem answer_par (s : State) (r : Response) : (s.answer r).par = s.par := rfl
@[simp] theorem answer_mem (s : State) (r : Response) : (s.answer r).mem = s.mem := rfl
@[simp] theorem answer_name (s : State) (r : Response) : (s.answer r).name = s.name := rfl
@[simp] theorem answer_i (s : State) (r : Response) : (s.answer r).i = s.i := rfl
@[simp] theorem answer_mode (s : State) (r : Response) : (s.answer r).mode = s.mode := rfl
@[simp] theorem answer_status (s : State) (r : Response) : (s.answer r).status = s.status := rfl
@[simp] theorem answer_err (s : State) (r : Response) : (s.answer r).err = s.err := rfl
@[simp] theorem answer_out (s : State) (r : Response) : (s.answer r).out = s.out := rfl
@[simp] theorem answer_dwarn (s : State) (r : Response) : (s.answer r).dwarn = s.dwarn := rfl
@[simp] theorem answer_keys (s : State) (r : Response) : (s.answer r).keys = s.keys := rfl
@[simp] theorem answer_inbox (s : State) (r : Response) : (s.answer r).inbox = s.inbox := rfl
@[simp] theorem answer_resp (s : State) (r : Response) : (s.answer r).resp = some r := rfl
@[simp] theorem answer_buf (s : State) (r : Response) : (s.answer r).buf = s.buf := rfl
@[simp] theorem answer_len (s : State) (r : Response) : (s.answer r).len = s.len := rfl

/-! ## `startRun` (R224) -/

@[simp] theorem startRun_par (m : Mode) (s : State) : (startRun m s).par = s.par := rfl
@[simp] theorem startRun_mem (m : Mode) (s : State) : (startRun m s).mem = s.mem := rfl
@[simp] theorem startRun_name (m : Mode) (s : State) : (startRun m s).name = s.name := rfl
@[simp] theorem startRun_i (m : Mode) (s : State) : (startRun m s).i = 0 := rfl
@[simp] theorem startRun_mode (m : Mode) (s : State) : (startRun m s).mode = m := rfl
@[simp] theorem startRun_status (m : Mode) (s : State) : (startRun m s).status = .running := rfl
@[simp] theorem startRun_err (m : Mode) (s : State) : (startRun m s).err = none := rfl
@[simp] theorem startRun_out (m : Mode) (s : State) : (startRun m s).out = [] := rfl
@[simp] theorem startRun_dwarn (m : Mode) (s : State) : (startRun m s).dwarn = [] := rfl
@[simp] theorem startRun_keys (m : Mode) (s : State) : (startRun m s).keys = s.keys := rfl
@[simp] theorem startRun_inbox (m : Mode) (s : State) : (startRun m s).inbox = s.inbox := rfl
@[simp] theorem startRun_resp (m : Mode) (s : State) : (startRun m s).resp = s.resp := rfl
@[simp] theorem startRun_buf (m : Mode) (s : State) : (startRun m s).buf = s.buf := rfl
@[simp] theorem startRun_len (m : Mode) (s : State) : (startRun m s).len = s.len := rfl

/-! ## `emit` (R226) -/

@[simp] theorem emit_par (r : InstrRec) (s : State) : (emit r s).par = s.par := rfl
@[simp] theorem emit_mem (r : InstrRec) (s : State) : (emit r s).mem = s.mem := rfl
@[simp] theorem emit_name (r : InstrRec) (s : State) : (emit r s).name = s.name := rfl
@[simp] theorem emit_i (r : InstrRec) (s : State) : (emit r s).i = s.i + r.length := rfl
@[simp] theorem emit_mode (r : InstrRec) (s : State) : (emit r s).mode = s.mode := rfl
@[simp] theorem emit_status (r : InstrRec) (s : State) : (emit r s).status = s.status := rfl
@[simp] theorem emit_err (r : InstrRec) (s : State) : (emit r s).err = s.err := rfl
@[simp] theorem emit_out (r : InstrRec) (s : State) : (emit r s).out = s.out ++ [{ offset := s.i, instr := r }] := rfl
@[simp] theorem emit_dwarn (r : InstrRec) (s : State) : (emit r s).dwarn = s.dwarn := rfl
@[simp] theorem emit_keys (r : InstrRec) (s : State) : (emit r s).keys = s.keys := rfl
@[simp] theorem emit_inbox (r : InstrRec) (s : State) : (emit r s).inbox = s.inbox := rfl
@[simp] theorem emit_resp (r : InstrRec) (s : State) : (emit r s).resp = s.resp := rfl
@[simp] theorem emit_buf (r : InstrRec) (s : State) : (emit r s).buf = s.buf := rfl
@[simp] theorem emit_len (r : InstrRec) (s : State) : (emit r s).len = s.len := rfl

/-! ## `loadImage` (R120) -/

@[simp] theorem loadImage_par (l : List Byte) (n : Text) (s : State) : (loadImage l n s).par = s.par := rfl
@[simp] theorem loadImage_mem (l : List Byte) (n : Text) (s : State) : (loadImage l n s).mem = Memory.ofImage l := rfl
@[simp] theorem loadImage_name (l : List Byte) (n : Text) (s : State) : (loadImage l n s).name = n := rfl
@[simp] theorem loadImage_i (l : List Byte) (n : Text) (s : State) : (loadImage l n s).i = 0 := rfl
@[simp] theorem loadImage_mode (l : List Byte) (n : Text) (s : State) : (loadImage l n s).mode = .strict := rfl
@[simp] theorem loadImage_status (l : List Byte) (n : Text) (s : State) : (loadImage l n s).status = .idle := rfl
@[simp] theorem loadImage_err (l : List Byte) (n : Text) (s : State) : (loadImage l n s).err = none := rfl
@[simp] theorem loadImage_out (l : List Byte) (n : Text) (s : State) : (loadImage l n s).out = [] := rfl
@[simp] theorem loadImage_dwarn (l : List Byte) (n : Text) (s : State) : (loadImage l n s).dwarn = [] := rfl
@[simp] theorem loadImage_keys (l : List Byte) (n : Text) (s : State) : (loadImage l n s).keys = s.keys := rfl
@[simp] theorem loadImage_inbox (l : List Byte) (n : Text) (s : State) : (loadImage l n s).inbox = s.inbox := rfl
@[simp] theorem loadImage_resp (l : List Byte) (n : Text) (s : State) : (loadImage l n s).resp = s.resp := rfl

/-! ## `resetWith` (R310) -/

@[simp] theorem resetWith_par (p : Params) : (State.resetWith p).par = p := rfl
@[simp] theorem resetWith_mem (p : Params) : (State.resetWith p).mem = [] := rfl
@[simp] theorem resetWith_name (p : Params) : (State.resetWith p).name = [] := rfl
@[simp] theorem resetWith_i (p : Params) : (State.resetWith p).i = 0 := rfl
@[simp] theorem resetWith_mode (p : Params) : (State.resetWith p).mode = .strict := rfl
@[simp] theorem resetWith_status (p : Params) : (State.resetWith p).status = .idle := rfl
@[simp] theorem resetWith_err (p : Params) : (State.resetWith p).err = none := rfl
@[simp] theorem resetWith_out (p : Params) : (State.resetWith p).out = [] := rfl
@[simp] theorem resetWith_dwarn (p : Params) : (State.resetWith p).dwarn = [] := rfl
@[simp] theorem resetWith_keys (p : Params) : (State.resetWith p).keys = [] := rfl
@[simp] theorem resetWith_inbox (p : Params) : (State.resetWith p).inbox = [] := rfl
@[simp] theorem resetWith_resp (p : Params) : (State.resetWith p).resp = none := rfl
@[simp] theorem resetWith_len (p : Params) : (State.resetWith p).len = 0 := rfl

end Sys2Proof.Machine
end

