-- ==== Sys2Proof/Laws/Memory.lean ====
section
/-! SUPPORT. The buffer: reads after loads and writes, and the canonical form, which every operation on the
buffer keeps. -/

namespace Sys2Proof.Machine

@[simp] theorem buf_length (s : State) : s.buf.length = s.len := by simp [State.buf, State.len]

/-- The byte of an index is the byte at that position of the buffer's bytes. -/
theorem read_eq_buf (s : State) (a : Nat) : Memory.read s.mem a = s.buf[a]? := by
  simp [Memory.read, State.buf]

@[simp] theorem cellsFrom_length (a : Nat) (l : List Byte) : (cellsFrom a l).length = l.length := by
  induction l generalizing a with
  | nil => rfl
  | cons b l ih => simp [cellsFrom, ih]

@[simp] theorem cellsFrom_bytes (a : Nat) (l : List Byte) : (cellsFrom a l).map Prod.snd = l := by
  induction l generalizing a with
  | nil => rfl
  | cons b l ih => simp [cellsFrom, ih]

/-- The indices of new cells are consecutive. -/
theorem cellsFrom_indices (a : Nat) (l : List Byte) :
    (cellsFrom a l).map Prod.fst = List.range' a l.length := by
  induction l generalizing a with
  | nil => rfl
  | cons b l ih => simp [cellsFrom, ih, List.range'_succ]

@[simp] theorem ofImage_length (l : List Byte) : (Memory.ofImage l).length = l.length := cellsFrom_length 0 l

@[simp] theorem ofImage_bytes (l : List Byte) : (Memory.ofImage l).map Prod.snd = l := cellsFrom_bytes 0 l

/-- A read after a load gives the image's byte, and nothing beyond the image. -/
theorem read_ofImage (l : List Byte) (a : Nat) : Memory.read (Memory.ofImage l) a = l[a]? := by
  rw [Memory.read, ← List.getElem?_map, ofImage_bytes]

/-- A loaded buffer is canonical. -/
theorem ofImage_wf (l : List Byte) (h : l.length ≤ 65536) : Memory.wf (Memory.ofImage l) :=
  ⟨by rw [Memory.ofImage, cellsFrom_indices, cellsFrom_length, List.range_eq_range'], by simpa using h⟩

@[simp] theorem loadImage_buf (l : List Byte) (n : Text) (s : State) : (loadImage l n s).buf = l :=
  ofImage_bytes l

@[simp] theorem loadImage_len (l : List Byte) (n : Text) (s : State) : (loadImage l n s).len = l.length :=
  ofImage_length l

/-- A write inside the buffer keeps its length. -/
theorem write_length (m : Memory) (a : Nat) (data : List Byte) (h : a + data.length ≤ m.length) :
    (m.write a data).length = m.length := by
  simp [Memory.write]; omega

/-- A write inside the buffer keeps the canonical form. -/
theorem write_wf (m : Memory) (a : Nat) (data : List Byte) (h : a + data.length ≤ m.length) (hm : m.wf) :
    (m.write a data).wf := by
  refine ⟨?_, by rw [write_length m a data h]; exact hm.2⟩
  rw [write_length m a data h]
  have h1 := hm.1
  simp only [Memory.write, List.map_append, List.map_take, List.map_drop, cellsFrom_indices, h1]
  apply List.ext_getElem
  · simp; omega
  · intro k hk _
    simp only [List.length_append, List.length_take, List.length_range, List.length_range', List.length_drop] at hk
    rcases Nat.lt_or_ge k a with h2 | h2
    · rw [List.getElem_append_left (by simp; omega), List.getElem_append_left (by simp; omega)]
      simp
    · rcases Nat.lt_or_ge k (a + data.length) with h3 | h3
      · rw [List.getElem_append_left (by simp; omega), List.getElem_append_right (by simp; omega)]
        simp; omega
      · rw [List.getElem_append_right (by simp; omega)]
        simp; omega

/-- A read after a write: the data inside the written range, the old byte everywhere else. -/
theorem read_write (m : Memory) (a : Nat) (data : List Byte) (h : a + data.length ≤ m.length) (k : Nat) :
    Memory.read (m.write a data) k =
      if a ≤ k ∧ k < a + data.length then data[k - a]? else Memory.read m k := by
  have hb : Memory.read (m.write a data) k
      = ((m.map Prod.snd).take a ++ data ++ (m.map Prod.snd).drop (a + data.length))[k]? := by
    simp [Memory.read, Memory.write, ← List.getElem?_map]
  have hm : Memory.read m k = (m.map Prod.snd)[k]? := by simp [Memory.read]
  have hl : (m.map Prod.snd).length = m.length := by simp
  rw [hb, hm]
  generalize m.map Prod.snd = l at hl ⊢
  rcases Nat.lt_or_ge k a with h2 | h2
  · rw [List.getElem?_append_left (by simp; omega), List.getElem?_append_left (by simp; omega)]
    rw [if_neg (by omega), List.getElem?_take_of_lt h2]
  · rcases Nat.lt_or_ge k (a + data.length) with h3 | h3
    · rw [List.getElem?_append_left (by simp; omega), List.getElem?_append_right (by simp; omega)]
      rw [if_pos ⟨h2, h3⟩, List.length_take, Nat.min_eq_left (by omega)]
    · rw [List.getElem?_append_right (by simp; omega), if_neg (by omega), List.getElem?_drop]
      congr 1
      simp; omega

/-- In the canonical form the byte of an index is the one its cell holds: the read is the lookup by index. -/
theorem read_eq_lookup (m : Memory) (hm : m.wf) (a : Nat) : Memory.read m a = m.lookup a := by
  have key : ∀ (m : Memory) (b a : Nat), m.map Prod.fst = List.range' b m.length → b ≤ a →
      m.lookup a = (m[a - b]?).map Prod.snd := by
    intro m
    induction m with
    | nil => intro b a _ _; simp
    | cons c m ih =>
      intro b a h hba
      obtain ⟨x, y⟩ := c
      simp only [List.map_cons, List.length_cons, List.range'_succ, List.cons.injEq] at h
      obtain ⟨rfl, h⟩ := h
      rcases Nat.eq_or_lt_of_le hba with rfl | h2
      · simp [List.lookup]
      · have hne : (a == x) = false := by simpa using Nat.ne_of_gt h2
        rw [List.lookup_cons, hne, ih (x + 1) a h h2]
        have : a - x = (a - (x + 1)) + 1 := by omega
        rw [this, List.getElem?_cons_succ]
  rw [key m 0 a (by rw [hm.1, List.range_eq_range']) (Nat.zero_le a)]
  simp [Memory.read]

end Sys2Proof.Machine
end

