-- ==== Sys2Proof/Laws/Ops.lean ====
section
/-! SUPPORT. What the shared operations answer: one lemma per outcome of the reads and of the range check, and
every way a step of the disassembler can end, and the order of the keys of `SET`. -/

namespace Sys2Proof.Machine

/-! ## Results -/

@[simp] theorem map_ok {α β : Type} (v : α) (d : List ErrRec) (f : α → β) :
    (Reply.ok v d).map f = .ok (f v) d := rfl
@[simp] theorem map_err {α β : Type} (e : ErrRec) (f : α → β) : (Reply.err e : Reply α).map f = .err e := rfl
@[simp] theorem bind_err {α β : Type} (e : ErrRec) (f : α → Reply β) : (Reply.err e).bind f = .err e := rfl
@[simp] theorem bind_ok {α β : Type} (v : α) (f : α → Reply β) : (Reply.ok v []).bind f = f v := by
  simp only [Reply.bind]; cases f v <;> rfl

/-! ## Reads -/

@[simp] theorem slice_length (buf : List Byte) (a n : Nat) (h : a + n ≤ buf.length) : (slice buf a n).length = n := by
  simp [slice]; omega

theorem slice_getElem? (buf : List Byte) (a n k : Nat) (h : k < n) : (slice buf a n)[k]? = buf[a + k]? := by
  simp [slice, h, List.getElem?_take_of_lt]

theorem memByte_ok (buf : List Byte) (a : Nat) (f : Field) (b : Byte) (h : buf[a]? = some b) :
    memByte buf a f = .ok b [] := by simp [memByte, h]

theorem memByte_err (buf : List Byte) (a : Nat) (f : Field) (h : buf.length ≤ a) :
    memByte buf a f = .err (boundsErr .index f a buf.length) := by simp [memByte, h]

theorem memRead_start (buf : List Byte) (a n : Nat) (f : Field) (h : buf.length ≤ a) :
    memRead buf a n f = .err (boundsErr (if n = 1 then .index else .start) f a buf.length) := by
  simp only [memRead, if_pos h]

theorem memRead_stop (buf : List Byte) (a n : Nat) (f : Field) (h : a < buf.length) (h2 : buf.length < a + n) :
    memRead buf a n f = .err (boundsErr .stop f (a + n) buf.length) := by
  simp only [memRead, if_neg (Nat.not_le.mpr h), if_pos h2]

theorem memRead_ok (buf : List Byte) (a n : Nat) (f : Field) (h : a < buf.length) (h2 : a + n ≤ buf.length) :
    memRead buf a n f = .ok (slice buf a n) [] := by
  simp only [memRead, if_neg (Nat.not_le.mpr h), if_neg (Nat.not_lt.mpr h2)]

/-- A read of one byte and a read of a range of one byte agree (R52, R126). -/
theorem memRead_one (buf : List Byte) (a : Nat) (f : Field) :
    memRead buf a 1 f = (memByte buf a f).map fun b => [b] := by
  rcases Nat.lt_or_ge a buf.length with h | h
  · rw [memRead_ok buf a 1 f h h, memByte_ok buf a f buf[a] (List.getElem?_eq_getElem h), map_ok]
    congr 1
    apply List.ext_getElem?
    intro k
    rcases k with _ | k
    · rw [slice_getElem? buf a 1 0 (by decide)]; simp [h]
    · simp [slice]
  · rw [memRead_start buf a 1 f h, memByte_err buf a f h]; rfl

/-- The operand bytes of an instruction: there, or an error (R229). -/
theorem readOperand_cases (buf : List Byte) (pos n : Nat) (h : pos < buf.length) :
    (pos + 1 + n ≤ buf.length ∧ readOperand buf pos n = .ok (slice buf (pos + 1) n) []) ∨
      (buf.length < pos + 1 + n ∧ ∃ e, readOperand buf pos n = .err e) := by
  unfold readOperand
  split
  · next h0 => subst h0; left; exact ⟨h, by simp [slice]⟩
  · next h0 =>
    rcases Nat.lt_or_ge (pos + 1) buf.length with h1 | h1
    · rcases Nat.lt_or_ge buf.length (pos + 1 + n) with h2 | h2
      · right; exact ⟨h2, _, memRead_stop _ _ _ _ h1 h2⟩
      · left; exact ⟨h2, memRead_ok _ _ _ _ h1 h2⟩
    · right; exact ⟨by omega, _, memRead_start _ _ _ _ h1⟩

/-! ## Steps of the disassembler -/

theorem opBytes_le (n : OperandCount) : opBytes n ≤ 2 := by cases n <;> decide

theorem cpuFlags_low (b : Byte) : cpuFlags b &&& 0x0F = 0 := by
  simp only [cpuFlags, BitVec.and_assoc]
  have : (0xF0#8 &&& 0x0F#8) = 0#8 := by decide
  simp [this]

/-- A record with a table entry has the right shape when an entry without operand bytes gets the operand 0. -/
theorem entryRec_ok (pre : Bool) (op : Byte) (e : OpEntry) (v : Half) (h : opBytes e.nops = 0 → v = 0) :
    recordOk (entryRec pre op e v) = true := by
  have h2 := opBytes_le e.nops
  have h3 := cpuFlags_low e.flags
  by_cases h0 : opBytes e.nops = 0
  · simp [recordOk, entryRec, h0, h h0]; exact h3
  · simp [recordOk, entryRec, h0, h2]; exact h3

theorem sentinel_ok (p : Params) (b : Byte) : recordOk (sentinel p b) = true := by
  simp [recordOk, sentinel]

/-- What a step that finds a run in progress before the end of the buffer can do: fail the run, emit a record
that lies inside the buffer, or, in permissive mode, emit a sentinel with its warning. -/
def StepOutcome (s : State) (r : State × Reply StepEnd) : Prop :=
  (∃ e, r = failRun e s) ∨
  (∃ rec : InstrRec, r = (emit rec s, .ok .emitted []) ∧ recordOk rec = true ∧ rec.unknown = false ∧ 1 ≤ rec.length ∧
    s.i + rec.length ≤ s.len) ∨
  (s.mode = .permissive ∧ s.i < s.len ∧ ∃ e b, e.kind = .unknownOpcode ∧
    r = ({ emit (sentinel s.par b) s with dwarn := s.dwarn ++ [e] }, .ok .emitted []))

theorem missOpcode_cases (pre : Bool) (op b0 : Byte) (s : State) (h : s.i < s.len) :
    StepOutcome s (missOpcode pre op b0 s) := by
  unfold missOpcode StepOutcome
  cases hm : s.mode with
  | strict => exact .inl ⟨_, rfl⟩
  | permissive => exact .inr (.inr ⟨rfl, h, _, b0, rfl, rfl⟩)

theorem hitOpcode_cases (pre : Bool) (op : Byte) (e : OpEntry) (val : List Byte → Half) (s : State)
    (h : s.i + pre.toNat < s.len) (hv : opBytes e.nops = 0 → val [] = 0) :
    StepOutcome s (hitOpcode pre op e val s) := by
  unfold hitOpcode StepOutcome
  rcases readOperand_cases s.buf (s.i + pre.toNat) (opBytes e.nops) (by simpa using h) with ⟨h1, h2⟩ | ⟨_, e', h2⟩
  · rw [h2]
    refine .inr (.inl ⟨_, rfl, entryRec_ok _ _ _ _ ?_, rfl, by simp [entryRec]; omega, ?_⟩)
    · intro h0; rw [h0]; simpa [slice] using hv h0
    · simp only [buf_length] at h1; simp only [entryRec]; omega
  · rw [h2]; exact .inl ⟨_, rfl⟩

/-- Every way a step can end (R226, R232). -/
theorem disStep_cases (s : State) :
    (s.status ≠ .running ∧ disStep s = (s, .err (refusedErr .notRunning s.len))) ∨
    (s.status = .running ∧ s.i = s.len ∧ disStep s = ({ s with status := .done }, .ok .done [])) ∨
    (s.status = .running ∧ s.i ≠ s.len ∧ StepOutcome s (disStep s)) := by
  by_cases h : s.status = .running
  · by_cases h2 : s.i = s.len
    · exact .inr (.inl ⟨h, h2, by simp [disStep, onRunning, h, h2]⟩)
    · refine .inr (.inr ⟨h, h2, ?_⟩)
      simp only [disStep, onRunning, h, h2, ne_eq, not_true_eq_false, if_false]
      rcases Nat.lt_or_ge s.i s.len with h3 | h3
      · rw [memByte_ok s.buf s.i .opcode (s.buf[s.i]'(by simpa using h3)) (List.getElem?_eq_getElem (by simpa using h3))]
        dsimp only
        split
        · unfold stepPrefixed
          rcases Nat.lt_or_ge (s.i + 1) s.len with h4 | h4
          · rw [memByte_ok s.buf (s.i + 1) .prefixedOpcode (s.buf[s.i + 1]'(by simpa using h4))
              (List.getElem?_eq_getElem (by simpa using h4))]
            dsimp only
            split
            · exact missOpcode_cases _ _ _ _ h3
            · exact hitOpcode_cases _ _ _ _ _ (by simpa using h4) (fun _ => rfl)
          · rw [memByte_err _ _ _ (by simpa using h4)]; exact .inl ⟨_, rfl⟩
        · unfold stepStandard
          split
          · exact missOpcode_cases _ _ _ _ h3
          · exact hitOpcode_cases _ _ _ _ _ (by simpa using h3) (fun _ => rfl)
      · rw [memByte_err _ _ _ (by simpa using h3)]; exact .inl ⟨_, rfl⟩
  · exact .inl ⟨h, by simp [disStep, onRunning, h]⟩

/-- What a step leaves alone: the buffer, the parameters, `NAME`, `MODE`, `SET` and the queue. `OUT` and `DWARN` are
only appended to (R25, R33). -/
theorem disStep_frame (s : State) :
    (disStep s).1.par = s.par ∧ (disStep s).1.mem = s.mem ∧ (disStep s).1.name = s.name ∧ (disStep s).1.mode = s.mode ∧
    (disStep s).1.keys = s.keys ∧ (disStep s).1.inbox = s.inbox ∧ (∃ l, (disStep s).1.out = s.out ++ l) ∧
    ∃ l, (disStep s).1.dwarn = s.dwarn ++ l := by
  rcases disStep_cases s with ⟨-, h⟩ | ⟨-, -, h⟩ | ⟨-, -, ⟨e, h⟩ | ⟨r, h, -⟩ | ⟨-, -, e, b, -, h⟩⟩ <;> rw [h]
  · exact ⟨rfl, rfl, rfl, rfl, rfl, rfl, ⟨[], by simp⟩, ⟨[], by simp⟩⟩
  · exact ⟨rfl, rfl, rfl, rfl, rfl, rfl, ⟨[], by simp⟩, ⟨[], by simp⟩⟩
  · exact ⟨rfl, rfl, rfl, rfl, rfl, rfl, ⟨[], by simp [failRun]⟩, ⟨[], by simp [failRun]⟩⟩
  · exact ⟨rfl, rfl, rfl, rfl, rfl, rfl, ⟨_, rfl⟩, ⟨[], by simp⟩⟩
  · exact ⟨rfl, rfl, rfl, rfl, rfl, rfl, ⟨_, rfl⟩, ⟨_, rfl⟩⟩

/-! ## The range check (R122) -/

/-- The four ways the range check can end, in the order of its tests. -/
theorem checkRange_cases (len : Nat) (r : RangeArg) :
    (len ≤ resolveStart r.start ∧
      checkRange len r = .err (boundsErr .start .rangeArgument (resolveStart r.start) len)) ∨
    (resolveStart r.start < len ∧ len < resolveEnd len r.stop ∧
      checkRange len r = .err (boundsErr .stop .rangeArgument (resolveEnd len r.stop) len)) ∨
    (resolveStart r.start < len ∧ resolveEnd len r.stop ≤ len ∧ resolveEnd len r.stop < resolveStart r.start ∧
      checkRange len r = .err (boundsErr .inverted .rangeArgument (resolveEnd len r.stop) len)) ∨
    (resolveStart r.start < len ∧ resolveStart r.start ≤ resolveEnd len r.stop ∧ resolveEnd len r.stop ≤ len ∧
      checkRange len r = .ok (resolveStart r.start, resolveEnd len r.stop) []) := by
  simp only [checkRange]
  split
  · next h => exact .inl ⟨h, rfl⟩
  · next h =>
    split
    · next h2 => exact .inr (.inl ⟨by omega, h2, rfl⟩)
    · next h2 =>
      split
      · next h3 => exact .inr (.inr (.inl ⟨by omega, by omega, h3, rfl⟩))
      · next h3 => exact .inr (.inr (.inr ⟨by omega, by omega, by omega, rfl⟩))

/-! ## The order of keys and the set (R35, R241) -/

theorem keyLt_trans (a b c : List Byte) (h : keyLt a b = true) (h2 : keyLt b c = true) : keyLt a c = true := by
  induction a generalizing b c with
  | nil => cases b <;> cases c <;> simp_all [keyLt]
  | cons x l ih =>
    cases b with
    | nil => simp [keyLt] at h
    | cons y m =>
      cases c with
      | nil => simp [keyLt] at h2
      | cons z n =>
        simp only [keyLt] at h h2 ⊢
        split at h <;> split at h2 <;> split <;> simp_all
        · exact ih _ _ h h2
        · subst_vars; bv_omega
        · bv_omega

theorem keyLt_total (a b : List Byte) (h : a ≠ b) (h2 : ¬keyLt a b = true) : keyLt b a = true := by
  induction a generalizing b with
  | nil => cases b <;> simp_all [keyLt]
  | cons x l ih =>
    cases b with
    | nil => simp [keyLt]
    | cons y m =>
      simp only [keyLt] at h2 ⊢
      by_cases hxy : x = y
      · subst hxy
        simp at h h2 ⊢
        exact ih _ h (by simpa using h2)
      · have : ¬y = x := fun h => hxy h.symm
        simp [hxy, this] at h2 ⊢
        bv_omega

theorem mem_insertKey (k x : List Byte) (l : List (List Byte)) : x ∈ insertKey k l ↔ x = k ∨ x ∈ l := by
  induction l with
  | nil => simp [insertKey]
  | cons y l ih =>
    simp only [insertKey]
    split
    · subst_vars; simp
    · split
      · simp
      · simp [ih]; tauto

/-- Inserting keeps the keys ascending, and so without duplicates. -/
theorem insertKey_pairwise (k : List Byte) (l : List (List Byte)) (h : l.Pairwise fun a b => keyLt a b = true) :
    (insertKey k l).Pairwise fun a b => keyLt a b = true := by
  induction l with
  | nil => simp [insertKey]
  | cons y l ih =>
    rw [List.pairwise_cons] at h
    simp only [insertKey]
    split
    · rw [List.pairwise_cons]; exact h
    · split
      · next h1 h2 =>
        rw [List.pairwise_cons, List.pairwise_cons]
        refine ⟨fun a ha => ?_, h⟩
        rcases List.mem_cons.mp ha with rfl | ha
        · exact h2
        · exact keyLt_trans _ _ _ h2 (h.1 _ ha)
      · next h1 h2 =>
        rw [List.pairwise_cons]
        refine ⟨fun a ha => ?_, ih h.2⟩
        rcases (mem_insertKey _ _ _).mp ha with rfl | ha
        · exact keyLt_total _ _ h1 h2
        · exact h.1 _ ha

/-- Sorting gives an ascending list of exactly the keys given. -/
theorem sortKeys_spec (l : List (List Byte)) :
    (sortKeys l).Pairwise (fun a b => keyLt a b = true) ∧ ∀ k, k ∈ sortKeys l ↔ k ∈ l := by
  induction l with
  | nil => simp [sortKeys]
  | cons x l ih =>
    refine ⟨insertKey_pairwise _ _ ih.1, fun k => ?_⟩
    rw [show sortKeys (x :: l) = insertKey x (sortKeys l) from rfl, mem_insertKey, ih.2]
    simp

end Sys2Proof.Machine
end

