-- ==== Sys2Proof/Laws/PerInstr.lean ====
section
/-! SUPPORT. Statements made per instruction. -/

namespace Sys2Proof.Laws

/-- The first byte of each row of the opcode table: the operation code of R82, or the first byte of the
target-stream format (R236 to R238, R231). -/
def firstByte : Instr → Byte
  | .bufLoad _ _ => 0x00
  | .bufGetb _ => 0x01
  | .bufGetr _ => 0x02
  | .bufPutr _ _ => 0x03
  | .hdrEntry => 0x10
  | .hdrLogo => 0x11
  | .hdrTitle => 0x12
  | .hdrManuf => 0x13
  | .hdrCgb => 0x14
  | .hdrNewlic => 0x15
  | .hdrSgb => 0x16
  | .hdrCtype => 0x17
  | .hdrRomsz => 0x18
  | .hdrRamsz => 0x19
  | .hdrDest => 0x1A
  | .hdrOldlic => 0x1B
  | .hdrVer => 0x1C
  | .hdrHchk => 0x1D
  | .hdrGchk => 0x1E
  | .hdrLicensee => 0x1F
  | .hdrAll => 0x20
  | .chkHdr => 0x30
  | .chkGlb => 0x31
  | .valLogo => 0x38
  | .valRam => 0x39
  | .valHchk => 0x3A
  | .valGchk => 0x3B
  | .valAll => 0x3C
  | .disStart _ => 0x40
  | .disStep => 0x41
  | .disRun _ => 0x42
  | .epdClear => 0x50
  | .epdInsert => 0x51
  | .epdSorted => 0x52
  | .nop => 0x00
  | .jpA16 _ => 0xC3
  | .prefixCb _ _ _ => 0xCB
  | .unknown x => x

/-- The bytes of an instruction begin with the first byte of its row. -/
def FirstByte.Statement (i : Instr) : Prop := ∀ p, (encode p i).head? = some (firstByte i)

theorem FirstByte.bufLoad (a : List Byte) (b : Text) : FirstByte.Statement (.bufLoad a b) := fun _ => rfl
theorem FirstByte.bufGetb (a : Half) : FirstByte.Statement (.bufGetb a) := fun _ => rfl
theorem FirstByte.bufGetr (a : RangeArg) : FirstByte.Statement (.bufGetr a) := fun _ => rfl
theorem FirstByte.bufPutr (a : RangeArg) (b : List Byte) : FirstByte.Statement (.bufPutr a b) := fun _ => rfl
theorem FirstByte.hdrEntry : FirstByte.Statement .hdrEntry := fun _ => rfl
theorem FirstByte.hdrLogo : FirstByte.Statement .hdrLogo := fun _ => rfl
theorem FirstByte.hdrTitle : FirstByte.Statement .hdrTitle := fun _ => rfl
theorem FirstByte.hdrManuf : FirstByte.Statement .hdrManuf := fun _ => rfl
theorem FirstByte.hdrCgb : FirstByte.Statement .hdrCgb := fun _ => rfl
theorem FirstByte.hdrNewlic : FirstByte.Statement .hdrNewlic := fun _ => rfl
theorem FirstByte.hdrSgb : FirstByte.Statement .hdrSgb := fun _ => rfl
theorem FirstByte.hdrCtype : FirstByte.Statement .hdrCtype := fun _ => rfl
theorem FirstByte.hdrRomsz : FirstByte.Statement .hdrRomsz := fun _ => rfl
theorem FirstByte.hdrRamsz : FirstByte.Statement .hdrRamsz := fun _ => rfl
theorem FirstByte.hdrDest : FirstByte.Statement .hdrDest := fun _ => rfl
theorem FirstByte.hdrOldlic : FirstByte.Statement .hdrOldlic := fun _ => rfl
theorem FirstByte.hdrVer : FirstByte.Statement .hdrVer := fun _ => rfl
theorem FirstByte.hdrHchk : FirstByte.Statement .hdrHchk := fun _ => rfl
theorem FirstByte.hdrGchk : FirstByte.Statement .hdrGchk := fun _ => rfl
theorem FirstByte.hdrLicensee : FirstByte.Statement .hdrLicensee := fun _ => rfl
theorem FirstByte.hdrAll : FirstByte.Statement .hdrAll := fun _ => rfl
theorem FirstByte.chkHdr : FirstByte.Statement .chkHdr := fun _ => rfl
theorem FirstByte.chkGlb : FirstByte.Statement .chkGlb := fun _ => rfl
theorem FirstByte.valLogo : FirstByte.Statement .valLogo := fun _ => rfl
theorem FirstByte.valRam : FirstByte.Statement .valRam := fun _ => rfl
theorem FirstByte.valHchk : FirstByte.Statement .valHchk := fun _ => rfl
theorem FirstByte.valGchk : FirstByte.Statement .valGchk := fun _ => rfl
theorem FirstByte.valAll : FirstByte.Statement .valAll := fun _ => rfl
theorem FirstByte.disStart (a : Mode) : FirstByte.Statement (.disStart a) := fun _ => rfl
theorem FirstByte.disStep : FirstByte.Statement .disStep := fun _ => rfl
theorem FirstByte.disRun (a : Mode) : FirstByte.Statement (.disRun a) := fun _ => rfl
theorem FirstByte.epdClear : FirstByte.Statement .epdClear := fun _ => rfl
theorem FirstByte.epdInsert : FirstByte.Statement .epdInsert := fun _ => rfl
theorem FirstByte.epdSorted : FirstByte.Statement .epdSorted := fun _ => rfl
theorem FirstByte.nop : FirstByte.Statement .nop := fun _ => rfl
theorem FirstByte.jpA16 (a : Half) : FirstByte.Statement (.jpA16 a) := fun _ => rfl
theorem FirstByte.prefixCb (a b c : Byte) : FirstByte.Statement (.prefixCb a b c) := fun _ => rfl
theorem FirstByte.unknown (a : Byte) : FirstByte.Statement (.unknown a) := fun _ => rfl

end Sys2Proof.Laws
end

