-- ==== Sys2Proof/Tests/Slice0.lean ====
section
/-! SUPPORT. The model's own tests. Expected results are the vectors of spec/95_test_vectors.md (the comment of each
test names them) or are worked out from the rule named. After them, for each statement of Obligations.lean that has
hypotheses, a witness that meets them. -/

namespace Sys2Proof.Tests

open Sys2Proof.Machine Sys2Proof.Spec

set_option maxRecDepth 20000

/-! ## Small states -/

/-- A reset state with the image `l` in the buffer. -/
def loaded (p : Params) (l : List Byte) : State := { State.resetWith p with mem := Memory.ofImage l }

/-- The response to one instruction. -/
def reply (i : Instr) (s : State) : Option Response :=
  match exec i s with
  | .next t => t.resp
  | _ => none

/-- The state after one instruction. -/
def after (i : Instr) (s : State) : State :=
  match exec i s with
  | .next t => t
  | _ => s

/-- The 80 header bytes of `TETRIS-IMG` (95 §2.1). -/
def tetrisHeader : List Byte := [
  0x00, 0xC3, 0x50, 0x01, 0xCE, 0xED, 0x66, 0x66, 0xCC, 0x0D, 0x00, 0x0B, 0x03, 0x73, 0x00, 0x83,
  0x00, 0x0C, 0x00, 0x0D, 0x00, 0x08, 0x11, 0x1F, 0x88, 0x89, 0x00, 0x0E, 0xDC, 0xCC, 0x6E, 0xE6,
  0xDD, 0xDD, 0xD9, 0x99, 0xBB, 0xBB, 0x67, 0x63, 0x6E, 0x0E, 0xEC, 0xCC, 0xDD, 0xDC, 0x99, 0x9F,
  0xBB, 0xB9, 0x33, 0x3E, 0x54, 0x45, 0x54, 0x52, 0x49, 0x53, 0x00, 0x00, 0x00, 0x00, 0x00, 0x00,
  0x00, 0x00, 0x00, 0x00, 0x00, 0x00, 0x00, 0x00, 0x00, 0x00, 0x00, 0x01, 0x00, 0x0B, 0x18, 0x41]

/-- `TETRIS-IMG`. -/
def tetris : List Byte := List.replicate 0x100 0 ++ tetrisHeader

/-- `TETRIS-IMG` with one byte changed. -/
def patched (a : Nat) (b : Byte) : List Byte := tetris.set a b

/-- `TETRIS-IMG` with another title region. -/
def titled (t : List Byte) : List Byte := tetris.take 0x134 ++ t ++ tetris.drop 0x144

/-- `TETRIS-IMG` loaded, under the reference tables. -/
def tetrisState : State := loaded referenceParams tetris

/-- The buffer of the vectors B1 to B25. -/
def small : State := loaded minimalParams [0x00, 0xC3, 0x50, 0x01]

/-- A run just started over the bytes `l`. -/
def run (m : Mode) (p : Params) (l : List Byte) : State := started m (loaded p l)

/-! ## Well-formedness -/

theorem test_wf_long_image : fitsFrame (List.replicate 4294967296 0) = false := by
  simp only [fitsFrame, List.length_replicate]; decide
theorem test_wf_load_refused : (Instr.bufLoad (List.replicate 4294967296 0) []).wf minimalParams = false := by
  simp only [Instr.wf, test_wf_long_image, Bool.false_and]
theorem test_wf_putr_refused : (Instr.bufPutr ⟨.unbounded, .unbounded⟩ (List.replicate 4294967296 0)).wf minimalParams = false :=
  test_wf_long_image
theorem test_wf_prefix_operand : (Instr.prefixCb 0x37 1 0).wf referenceParams = false := by decide
theorem test_wf_unknown_escape : (Instr.unknown 0xCB).wf minimalParams = false := by decide
theorem test_wf_unknown_has_entry : (Instr.unknown 0xC3).wf minimalParams = false := by decide
theorem test_wf_accepts : (Instr.unknown 0xD3).wf referenceParams = true := by decide

/-! ## Decoding: words written out from R82 (its operation codes) and R86, R89, R236 to R238. The layout of arguments
is log entry 4. -/

theorem test_decode_buf_load :
    decodeFrame [0x00, 0x02, 0x00, 0x00, 0x00, 0xC3, 0x50, 0x01, 0x00, 0x00, 0x00, 0x61] = .ok (.bufLoad [0xC3, 0x50] [0x61]) := by
  decide
theorem test_decode_buf_getb : decodeFrame [0x01, 0x4F, 0x01] = .ok (.bufGetb 0x014F) := by decide
theorem test_decode_buf_getr :
    decodeFrame [0x02, 0x01, 0x34, 0x01, 0x02, 0x39, 0x01] = .ok (.bufGetr ⟨.fromIdx 0x0134, .toIncl 0x0139⟩) := by decide
theorem test_decode_buf_getr_open : decodeFrame [0x02, 0x00, 0x01, 0x00, 0x01] = .ok (.bufGetr ⟨.unbounded, .toExcl 0x0100⟩) := by
  decide
theorem test_decode_buf_putr :
    decodeFrame [0x03, 0x01, 0x01, 0x00, 0x02, 0x01, 0x00, 0x01, 0x00, 0x00, 0x00, 0xAB] =
      .ok (.bufPutr ⟨.fromIdx 1, .toIncl 1⟩ [0xAB]) := by decide
theorem test_decode_hdr_1 :
    decodeFrame [0x10] = .ok .hdrEntry ∧ decodeFrame [0x11] = .ok .hdrLogo ∧ decodeFrame [0x12] = .ok .hdrTitle ∧
    decodeFrame [0x13] = .ok .hdrManuf ∧ decodeFrame [0x14] = .ok .hdrCgb ∧ decodeFrame [0x15] = .ok .hdrNewlic ∧
    decodeFrame [0x16] = .ok .hdrSgb ∧ decodeFrame [0x17] = .ok .hdrCtype := by decide
theorem test_decode_hdr_2 :
    decodeFrame [0x18] = .ok .hdrRomsz ∧ decodeFrame [0x19] = .ok .hdrRamsz ∧ decodeFrame [0x1A] = .ok .hdrDest ∧
    decodeFrame [0x1B] = .ok .hdrOldlic ∧ decodeFrame [0x1C] = .ok .hdrVer ∧ decodeFrame [0x1D] = .ok .hdrHchk ∧
    decodeFrame [0x1E] = .ok .hdrGchk ∧ decodeFrame [0x1F] = .ok .hdrLicensee ∧ decodeFrame [0x20] = .ok .hdrAll := by decide
theorem test_decode_chk_val :
    decodeFrame [0x30] = .ok .chkHdr ∧ decodeFrame [0x31] = .ok .chkGlb ∧ decodeFrame [0x38] = .ok .valLogo ∧
    decodeFrame [0x39] = .ok .valRam ∧ decodeFrame [0x3A] = .ok .valHchk ∧ decodeFrame [0x3B] = .ok .valGchk ∧
    decodeFrame [0x3C] = .ok .valAll := by decide
theorem test_decode_dis_epd :
    decodeFrame [0x40, 0x00] = .ok (.disStart .strict) ∧ decodeFrame [0x41] = .ok .disStep ∧
    decodeFrame [0x42, 0x01] = .ok (.disRun .permissive) ∧ decodeFrame [0x50] = .ok .epdClear ∧
    decodeFrame [0x51] = .ok .epdInsert ∧ decodeFrame [0x52] = .ok .epdSorted := by decide
theorem test_decode_errors :
    decodeFrame [0x04] = .error (.undefinedOp 0x04) ∧ decodeFrame [0x01, 0x4F] = .error .truncated ∧
    decodeFrame [0x41, 0x00] = .error .trailing ∧ decodeFrame [0x40, 0x02] = .error (.badMode 0x02) ∧
    decodeFrame [0x02, 0x03] = .error (.badBound 0x03) ∧ decodeFrame [] = .error .empty := by decide
theorem test_decode_nop : decodeTarget minimalParams [0b00000000, 0xAA] = .ok (.nop, [0xAA]) := by decide
theorem test_decode_jp : decodeTarget minimalParams [0b11000011, 0x50, 0x01] = .ok (.jpA16 0x0150, []) := by decide
theorem test_decode_prefix_cb :
    decodeTarget referenceParams [0b11001011, 0xCB, 0x00] = .ok (.prefixCb 0xCB 0 0, [0x00]) := by decide
theorem test_decode_unknown : decodeTarget minimalParams [0x3E, 0x00] = .ok (.unknown 0x3E, [0x00]) := by decide
theorem test_decode_other_entry : decodeTarget referenceParams [0x3E, 0x00] = .error (.otherEntry 0x3E) := by decide
theorem test_decode_lone_escape : decodeTarget minimalParams [0xCB] = .error .truncated := by decide
theorem test_table_words :
    decodeTableWord 8 0x41 = some .disStep ∧ decodeTableWord 8 0xC3 = some (.jpA16 0) ∧
    decodeTableWord 16 0x37CB = some (.prefixCb 0x37 0 0) := by decide

/-! ## The buffer -/

/-- R120's example, from a permissive run; `MODE` strict by R311 and D34. -/
theorem test_load : after (.bufLoad [0x00, 0xC3, 0x50, 0x01] (text "a.gb")) (run .permissive minimalParams [0x00]) =
    { small with name := text "a.gb", resp := some (.ok .unit []) } := by decide
/-- B3. -/
theorem test_getb_end : reply (.bufGetb 4) small = some (.err (boundsErr .index .rangeArgument 4 4)) := by decide
theorem test_getb : reply (.bufGetb 2) small = some (.ok (.byte 0x50) []) := by decide
/-- B6, B17. -/
theorem test_getr : reply (.bufGetr ⟨.fromIdx 1, .toIncl 2⟩) small = some (.ok (.bytes [0xC3, 0x50]) []) := by decide
theorem test_getr_inverted :
    reply (.bufGetr ⟨.fromIdx 3, .toExcl 1⟩) small = some (.err (boundsErr .inverted .rangeArgument 1 4)) := by decide
/-- B20, B21. -/
theorem test_putr : (after (.bufPutr ⟨.fromIdx 2, .toExcl 4⟩ [0x00, 0x02]) small).mem =
    [(0, 0x00), (1, 0xC3), (2, 0x00), (3, 0x02)] := by decide
theorem test_putr_mismatch : reply (.bufPutr ⟨.fromIdx 2, .toExcl 4⟩ [0x00]) small =
    some (.err { boundsErr .lengthMismatch .rangeArgument 1 4 with code := 2 }) := by decide

/-! ## The header (95 §2.2, §3.2, §3.3) -/

theorem test_entry : reply .hdrEntry tetrisState = some (.ok (.bytes [0x00, 0xC3, 0x50, 0x01]) []) := by decide
theorem test_logo : reply .hdrLogo tetrisState = some (.ok (.bytes referenceParams.logoRef.toList) []) := by decide
/-- T3 and T8. -/
theorem test_title_manufacturer : reply .hdrTitle (loaded minimalParams (titled (text "SUPER MARIOLAND" ++ [0]))) =
    some (.ok (.bytes (text "SUPER MARIO")) []) := by decide
theorem test_title_invalid :
    reply .hdrTitle (loaded minimalParams (titled (text "HELLO" ++ List.replicate 10 0 ++ [0x81]))) =
    some (.err { blankRec .invalidText 0x150 with field := .title, code := 0x81, index := 0x143 }) := by decide
/-- T4 and T11. -/
theorem test_manuf : reply .hdrManuf (loaded minimalParams (titled (text "POKEMON REDAPSE" ++ [0x80]))) =
    some (.ok (.bytesOption (some (text "APSE"))) []) := by decide
theorem test_manuf_space : reply .hdrManuf (loaded minimalParams (titled (text "MYGAME" ++ List.replicate 5 0 ++ text "AB 1" ++ [0]))) =
    some (.ok (.bytesOption none) []) := by decide
theorem test_cgb : reply .hdrCgb (loaded minimalParams (patched 0x143 0x84)) = some (.ok (.cgb .pgbMode) []) := by decide
theorem test_cgb_not_bit7 : reply .hdrCgb (loaded minimalParams (patched 0x143 0x81)) = some (.ok (.cgb .none) []) := by decide
theorem test_newlic : reply .hdrNewlic (loaded minimalParams (patched 0x145 0x31)) = some (.ok (.bytes [0x00, 0x31]) []) := by decide
theorem test_sgb : reply .hdrSgb (loaded minimalParams (patched 0x146 0x03)) = some (.ok (.bit true) []) := by decide
theorem test_ctype : (ctypeOf referenceParams 0x22).map packCtype = .ok 0x031F [] ∧
    (ctypeOf referenceParams 0xFF).map packCtype = .ok 0x1018 [] := by decide
theorem test_ctype_miss : reply .hdrCtype (loaded referenceParams (patched 0x147 0x50)) =
    some (.err (tableMiss .unknownTableCode .cartridgeType 0x50 0x147 0x150)) := by decide
theorem test_romsz : reply .hdrRomsz (loaded minimalParams (patched 0x148 0x08)) = some (.ok (.romBytes 8388608) []) := by decide
theorem test_romsz_miss : reply .hdrRomsz (loaded minimalParams (patched 0x148 0x51)) =
    some (.err (tableMiss .unknownTableCode .romSize 0x51 0x148 0x150)) := by decide
theorem test_ramsz : reply .hdrRamsz (loaded minimalParams (patched 0x149 0x04)) = some (.ok (.ramBytes 131072) []) := by decide
theorem test_ramsz_miss : reply .hdrRamsz (loaded minimalParams (patched 0x149 0x06)) =
    some (.ok (.ramBytes 0) [tableMiss .degradedTableCode .ramSize 0x06 0x149 0x150]) := by decide
theorem test_dest : reply .hdrDest tetrisState = some (.ok (.dest .japan) []) := by decide
theorem test_dest_miss : reply .hdrDest (loaded minimalParams tetris) =
    some (.ok (.dest .unknown) [tableMiss .degradedTableCode .destination 0x00 0x14A 0x150]) := by decide
theorem test_oldlic : reply .hdrOldlic tetrisState = some (.ok (.byte 0x01) []) := by decide
theorem test_ver_short : reply .hdrVer (loaded minimalParams (tetris.take 0x14C)) =
    some (.err (boundsErr .index .version 0x14C 0x14C)) := by decide
theorem test_hchk : reply .hdrHchk tetrisState = some (.ok (.byte 0x0B) []) := by decide
theorem test_gchk : reply .hdrGchk tetrisState = some (.ok (.half 0x1841) []) := by decide
theorem test_gchk_short : reply .hdrGchk (loaded minimalParams (tetris.take 0x14F)) =
    some (.err (boundsErr .stop .globalChecksum 0x150 0x14F)) := by decide
/-- L1 and L6. -/
theorem test_licensee_old : reply .hdrLicensee tetrisState =
    some (.ok (.licensee ⟨.old, 0x01, 0, true, text "Nintendo"⟩) []) := by decide
theorem test_licensee_new : reply .hdrLicensee (loaded minimalParams (((patched 0x14B 0x33).set 0x144 0xFF).set 0x145 0x80)) =
    some (.ok (.licensee ⟨.new, 0x33, 0xFF80, false, []⟩)
      [tableMiss .degradedTableCode .newLicensee 0xFF80 0x144 0x150]) := by decide
/-- A1 and A6: no note, and a note of each of the four kinds, in slot order, with the image still usable. -/
theorem test_all_notes : cartridgeNotes (hdrAllRecord referenceParams tetris) = [] := by decide
theorem test_all_usable : (hdrAllRecord referenceParams (((patched 0x134 0xE9).set 0x149 0x09).set 0x14A 0x02)).usable = true ∧
    (cartridgeNotes (hdrAllRecord referenceParams (((patched 0x134 0xE9).set 0x149 0x09).set 0x14A 0x02))).map ErrRec.field =
      [.title, .ramSize, .destination] := by decide

/-! ## Checksums and validation (95 §3.4) -/

/-- H6, H7. -/
theorem test_chk_hdr : reply .chkHdr tetrisState = some (.ok (.byte 0x0B) []) := by decide
theorem test_chk_hdr_flip : reply .chkHdr (loaded minimalParams (patched 0x134 0x55)) = some (.ok (.byte 0x0A) []) := by decide
/-- G7, G9. -/
theorem test_chk_glb : reply .chkGlb tetrisState = some (.ok (.half 0x1841) []) := by decide
theorem test_chk_glb_header : reply .chkGlb (loaded { minimalParams with gchkRange := .header } (patched 0 0x10)) =
    some (.ok (.half 0x1841) []) := by decide
/-- V1, V3. -/
theorem test_val_logo : valLogo referenceParams tetris = ⟨.logo, true, .none, 0, 0, none⟩ := by decide
theorem test_val_logo_bit : reply .valLogo (loaded referenceParams (patched 0x133 0x3F)) =
    some (.ok (.check ⟨.logo, false, .logoMismatch, 0, 0, none⟩) []) := by decide
/-- V4, V6. -/
theorem test_val_ram_flag : reply .valRam (loaded minimalParams (patched 0x147 0x13)) =
    some (.ok (.check ⟨.ram, false, .ramFlagWithoutSize, 0, 0, none⟩) []) := by decide
theorem test_val_ram_size : reply .valRam (loaded minimalParams (patched 0x149 0x02)) =
    some (.ok (.check ⟨.ram, false, .ramSizeWithoutFlag, 0, 0, none⟩) []) := by decide
/-- V10. -/
theorem test_val_hchk : reply .valHchk (loaded minimalParams (patched 0x14D 0x0C)) =
    some (.ok (.check ⟨.headerChecksum, false, .checksumMismatch, 0x0B, 0x0C,
      some { blankRec .checksumMismatch 0x150 with field := .headerChecksum, code := 0x0C, index := 0x14D }⟩) []) := by decide
/-- V2. -/
theorem test_val_gchk : (valGchk minimalParams (patched 0x104 0x00)).computed = 0x1773 ∧
    (valGchk minimalParams (patched 0x104 0x00)).stored = 0x1841 ∧
    (valGchk minimalParams (patched 0x104 0x00)).reason = .checksumMismatch := by decide
/-- V11. -/
theorem test_val_all : (valAll referenceParams ((patched 0x14E 0x00).set 0x14F 0x00)).pass = true ∧
    (valAll referenceParams ((patched 0x14E 0x00).set 0x14F 0x00)).gchk.pass = false := by decide

/-! ## The disassembler (95 §3.5) -/

/-- S6. -/
theorem test_dis_start : after (.disStart .permissive) (after .disStep (run .strict minimalParams [0x00, 0x00])) =
    { run .permissive minimalParams [0x00, 0x00] with resp := some (.ok .unit []) } := by decide
/-- The example of R226, and S1. -/
theorem test_dis_step : (after .disStep (run .strict minimalParams [0xC3, 0x50, 0x01])).out =
    [⟨0, ⟨0xC3, false, false, text "JP a16", 3, 2, 0x0150, 16, 0x00⟩⟩] := by decide
theorem test_dis_step_not_running : reply .disStep (loaded minimalParams []) = some (.err (refusedErr .notRunning 0)) := by decide
/-- D9p. -/
theorem test_dis_run_permissive : (after (.disRun .permissive) (loaded minimalParams [0xCB, 0x37, 0x00])).out.map (fun r => (r.offset, r.instr.opcode, r.instr.unknown)) =
      [(0, 0xCB, true), (1, 0x37, true), (2, 0x00, false)] ∧
    (after (.disRun .permissive) (loaded minimalParams [0xCB, 0x37, 0x00])).dwarn.map (fun e => (e.field, e.code, e.index, e.start)) =
      [(.prefixedOpcode, 0x37, 1, 0), (.opcode, 0x37, 1, 1)] := by decide
/-- E2. -/
theorem test_dis_run_reference :
    (after (.disRun .strict) (loaded referenceParams [0x3E, 0xFF, 0xE0, 0x40, 0xCB, 0x37, 0x18, 0xFE, 0x21, 0x34, 0x12])).out = [
      ⟨0, ⟨0x3E, false, false, text "LD A,d8", 2, 1, 0x00FF, 8, 0x00⟩⟩,
      ⟨2, ⟨0xE0, false, false, text "LDH (a8),A", 2, 1, 0x0040, 12, 0x00⟩⟩,
      ⟨4, ⟨0x37, true, false, text "SWAP A", 2, 0, 0x0000, 8, 0xF0⟩⟩,
      ⟨6, ⟨0x18, false, false, text "JR r8", 2, 1, 0x00FE, 12, 0x00⟩⟩,
      ⟨8, ⟨0x21, false, false, text "LD HL,d16", 3, 2, 0x1234, 12, 0x00⟩⟩] := by decide
/-- D3 and D12p. -/
theorem test_lone_prefix : reply (.disRun .permissive) (loaded minimalParams [0xCB]) =
    some (.err ((boundsErr .index .prefixedOpcode 1 1).inInstr 0 true)) := by decide
theorem test_truncated_operand : reply (.disRun .permissive) (loaded minimalParams [0xFF, 0xC3, 0x01]) =
    some (.err ((boundsErr .stop .operand 4 3).inInstr 1 false)) := by decide
/-- W9; the record of R236 under `OPROM_MIN`. -/
theorem test_nop : after .nop (run .strict minimalParams [0x00]) = after .disStep (run .strict minimalParams [0x00]) := by decide
/-- D6. -/
theorem test_jp_short : reply (.jpA16 0x0050) (run .strict minimalParams [0xC3, 0x50]) =
    some (.err ((boundsErr .stop .operand 3 2).inInstr 0 false)) := by decide
/-- E4. -/
theorem test_prefix_cb : (after (.prefixCb 0xCB 0 0) (run .strict referenceParams [0xCB, 0xCB])).out =
    [⟨0, ⟨0xCB, true, false, text "SET 1,E", 2, 0, 0x0000, 8, 0x00⟩⟩] := by decide
/-- E3p. -/
theorem test_unknown : (after (.unknown 0xD3) (run .permissive referenceParams [0xD3])).out =
    [⟨0, ⟨0xD3, false, true, text "unknown", 1, 0, 0x0000, 0, 0x00⟩⟩] := by decide

/-! ## Codes and registers -/

/-- The last codes of the tables of R95, R210, R280 and R281, and CTL of R29 with MODE 1 and STATUS 2. -/
theorem test_codes :
    kindCode (.refused .loadTooLong) = 7 ∧ subCode (.refused .loadTooLong) = 3 ∧ subCode (.bounds .lengthMismatch) = 4 ∧
    fieldCode .rangeArgument = 20 ∧ fieldCode .licensee = 16 ∧ checkCode .globalChecksum = 3 ∧ reasonCode .undecodable = 5 := by
  decide
theorem test_ctl : State.sr2 { small with mode := .permissive, status := .done } = 0b101 := by decide

/-! ## The deduplication set (95 §3.6) -/

/-- The seven keys of §3.6, in insertion order, and the list that `EPD.SORTED` returns. -/
theorem test_sorted : sortKeys [[0xF3, 0xC3, 0x00, 0x02], [0x00, 0xC3, 0x50, 0x01], [0x00, 0xC3, 0x50, 0x01],
      [0x00, 0xC3, 0x50, 0x02], [0xFF, 0x00, 0x00, 0x00], [0x00, 0x00, 0xFF, 0xFF], [0x80, 0x00, 0x00, 0x00], [0x7F, 0xFF, 0xFF, 0xFF]] =
    [[0x00, 0x00, 0xFF, 0xFF], [0x00, 0xC3, 0x50, 0x01], [0x00, 0xC3, 0x50, 0x02], [0x7F, 0xFF, 0xFF, 0xFF],
      [0x80, 0x00, 0x00, 0x00], [0xF3, 0xC3, 0x00, 0x02], [0xFF, 0x00, 0x00, 0x00]] := by decide
/-- W12: the same entry point twice. -/
theorem test_insert_twice : reply .epdInsert (after .epdInsert tetrisState) = some (.ok (.bit false) []) ∧
    (after .epdInsert (after .epdInsert tetrisState)).keys = [[0x00, 0xC3, 0x50, 0x01]] := by decide
theorem test_clear : (after .epdClear (after .epdInsert tetrisState)).keys = [] := by decide

/-! ## The machine -/

/-- Bytes from outside come in as frames: two requests, then idle. -/
theorem test_step_queue : (match step { small with inbox := [[0x01, 0x02, 0x00], [0x41]] } with
    | .next t => (t.resp, t.inbox)
    | _ => (none, [])) = (some (.ok (.byte 0x50) []), [[0x41]]) := by decide
theorem test_fetch_word : (match step (State.reset.withFetchWord 24 0x0150C3) with
    | .next t => t.out.map (fun r => r.instr.operand)
    | _ => []) = [0x0150] := by decide

/-! ## Witnesses: for each statement with hypotheses, states and operands that meet them, each clause at the ends of
its range -/

/-- `TETRIS-IMG` cut to its first `n` bytes, under the minimal tables. -/
def cut (n : Nat) : State := loaded minimalParams (tetris.take n)

/-- `TETRIS-IMG` with one byte changed, loaded under the reference tables. -/
def changed (a : Nat) (b : Byte) : State := loaded referenceParams (patched a b)

theorem witness_RequestsDecodeAndEncode :
    decodeRequest [0x41, 0xAA] = .ok (.disStep, [0xAA]) ∧ Instr.disStep.isRequest = true ∧
      Instr.disStep.wf minimalParams = true ∧ [0x41, 0xAA] = encode minimalParams .disStep ++ [0xAA] := by decide
theorem witness_TargetDecodeAndEncode :
    decodeTarget referenceParams [0xCB, 0x37] = .ok (.prefixCb 0x37 0 0, []) ∧ (Instr.prefixCb 0x37 0 0).isRequest = false ∧
      (Instr.prefixCb 0x37 0 0).wf referenceParams = true := by decide
theorem witness_StepServesTheOldestRequest :
    small.inbox = [] ∧ { small with inbox := [[0x41], [0x50]] }.inbox = [0x41] :: [[0x50]] ∧
      decodeFrame [0x41] = .ok .disStep := by decide
theorem witness_UndefinedRequestsAreRefused :
    (0x04 : Byte) ∉ opCodes ∧ (0x0F : Byte) ∉ opCodes ∧ (0x21 : Byte) ∉ opCodes ∧ (0x53 : Byte) ∉ opCodes ∧
      (0xFF : Byte) ∉ opCodes ∧ { small with inbox := [[0x04, 0x00]] }.inbox = (0x04 :: [0x00]) :: [] ∧
      (loaded { minimalParams with bufRw := false } [0x00]).par.bufRw = false := by decide
theorem witness_DisStepRunsTheDecodedInstruction :
    decodeTarget (run .strict minimalParams [0xC3, 0x50, 0x01]).par
      ((run .strict minimalParams [0xC3, 0x50, 0x01]).buf.drop (run .strict minimalParams [0xC3, 0x50, 0x01]).i) =
        .ok (.jpA16 0x0150, []) := by decide
theorem witness_StepKeepsTheInvariant :
    { run .permissive minimalParams [0xCB, 0xCB] with inbox := [[0x41]] }.Inv ∧
      ∃ t, step { run .permissive minimalParams [0xCB, 0xCB] with inbox := [[0x41]] } = .next t :=
  ⟨by decide, _, rfl⟩
theorem witness_TheBlockNeverStops : ∀ f ∈ [[0x41], [0x04], [0x42, 0x01]], answerable f = true := by decide
theorem witness_BufLoadInstallsTheImage :
    (List.replicate 65536 (0 : Byte)).length ≤ 65536 ∧ 65536 < (List.replicate 65537 (0 : Byte)).length ∧
      (List.replicate 131071 (0 : Byte)).length < 131072 := by simp only [List.length_replicate]; decide
theorem witness_BufGetbReadsOneByte : (3 : Half).toNat < small.len ∧ small.len ≤ (4 : Half).toNat := by decide
theorem witness_BufGetrReadsTheRange :
    Resolves small.len ⟨.fromIdx 3, .toIncl 3⟩ 3 4 ∧ Resolves small.len ⟨.fromIdx 4, .unbounded⟩ 4 4 ∧
      Resolves small.len ⟨.unbounded, .toExcl 5⟩ 0 5 ∧ Resolves small.len ⟨.fromIdx 3, .toExcl 2⟩ 3 2 ∧
      Resolves small.len ⟨.fromIdx 3, .toExcl 3⟩ 3 3 ∧ small.len = 4 := by
  simp only [Resolves]; decide
theorem witness_BufPutrReplacesTheRange :
    Resolves small.len ⟨.fromIdx 2, .toExcl 4⟩ 2 4 ∧ small.par.bufRw = true ∧ ([0x00, 0x02] : List Byte).length = 4 - 2 ∧
      ([0x00] : List Byte).length ≠ 4 - 2 ∧ 2 < small.len ∧ 4 ≤ small.len := by simp only [Resolves]; decide
theorem witness_WritesAreSeenByReads :
    ∃ t, exec (.bufPutr ⟨.fromIdx 2, .toExcl 4⟩ [0x00, 0x02]) small = .next t ∧ t.resp = some (.ok .unit []) := ⟨_, rfl, rfl⟩
theorem witness_HdrByteSequences :
    0x0100 + 4 ≤ (cut 0x104).len ∧ (cut 0x100).len ≤ 0x0100 ∧ 0x0100 < (cut 0x101).len ∧ (cut 0x103).len < 0x0100 + 4 ∧
      0x0104 + 48 ≤ (cut 0x134).len ∧ (cut 0x133).len < 0x0104 + 48 ∧ 0x0144 + 2 ≤ (cut 0x146).len := by decide
theorem witness_HdrRawBytesAndChecksums :
    Memory.read tetrisState.mem 0x014B = some 0x01 ∧ Memory.read tetrisState.mem 0x014C = some 0x00 ∧
      Memory.read tetrisState.mem 0x014D = some 0x0B ∧ Memory.read tetrisState.mem 0x014E = some 0x18 ∧
      Memory.read tetrisState.mem 0x014F = some 0x41 ∧ (cut 0x14B).len ≤ 0x014B ∧ (cut 0x14E).len ≤ 0x014E ∧
      (cut 0x14F).len = 0x014F := by decide
theorem witness_HdrCgbAndSgbFlags :
    Memory.read (changed 0x143 0x80).mem 0x0143 = some 0x80 ∧ Memory.read (changed 0x143 0xC0).mem 0x0143 = some 0xC0 ∧
      Memory.read (changed 0x143 0x84).mem 0x0143 = some 0x84 ∧ Memory.read (changed 0x143 0x81).mem 0x0143 = some 0x81 ∧
      (0x81 : Byte) ∉ [(0x80 : Byte), 0xC0, 0x88, 0x84] ∧ Memory.read tetrisState.mem 0x0146 = some 0x00 ∧
      (cut 0x143).len ≤ 0x0143 ∧ (cut 0x146).len ≤ 0x0146 := by decide
theorem witness_HdrCartridgeType :
    Memory.read (changed 0x147 0x50).mem 0x0147 = some 0x50 ∧ ctypeRom (changed 0x147 0x50).par 0x50 = none ∧
      ctypeRom tetrisState.par 0x00 = some { plainType with rom := true } ∧ (cut 0x147).len ≤ 0x0147 ∧
      0x23 ≤ (0x23 : Byte).toNat ∧ (0xFB : Byte).toNat ≤ 0xFB := by decide
theorem witness_CartridgeTypePacks : unpackCtype 0x001B = some { plainType with mbc := .mbc3, ram := true, battery := true } := by
  decide
theorem witness_HdrRomAndRamSizes :
    Memory.read (changed 0x148 0x08).mem 0x0148 = some 0x08 ∧ (0x08 : Byte).toNat ≤ 8 ∧
      Memory.read (changed 0x148 0x53).mem 0x0148 = some 0x53 ∧ Memory.read (changed 0x148 0x09).mem 0x0148 = some 0x09 ∧
      8 < (0x09 : Byte).toNat ∧ (0x09 : Byte) ∉ [(0x52 : Byte), 0x53, 0x54] ∧
      Memory.read (changed 0x149 0x05).mem 0x0149 = some 0x05 ∧ Memory.read (changed 0x149 0x06).mem 0x0149 = some 0x06 ∧
      5 < (0x06 : Byte).toNat ∧ (cut 0x148).len ≤ 0x0148 ∧ (cut 0x149).len ≤ 0x0149 := by decide
theorem witness_HdrDestination :
    Memory.read tetrisState.mem 0x014A = some 0x00 ∧ destRom tetrisState.par 0x00 = some .japan ∧
      Memory.read (changed 0x14A 0x01).mem 0x014A = some 0x01 ∧ destRom tetrisState.par 0x01 = some .overseas ∧
      Memory.read (changed 0x14A 0x02).mem 0x014A = some 0x02 ∧ destRom tetrisState.par 0x02 = none ∧
      (cut 0x14A).len ≤ 0x014A := by decide
/-- The title region of T1. -/
def tetrisTitle : List Byte := text "TETRIS" ++ List.replicate 10 0
theorem not_manufPresent_tetris : ¬ManufPresent tetrisTitle := by
  intro h
  obtain ⟨b, hb, hu⟩ := h 11 (by decide) (by decide)
  have : b = 0 := by simpa [tetrisTitle, text] using hb.symm
  subst this
  rcases hu with hu | hu <;> exact absurd hu (by decide)
theorem manufPresent_land : ManufPresent (text "SUPER MARIOLAND" ++ [0]) := by
  intro k h1 h2
  obtain rfl | rfl | rfl | rfl : k = 11 ∨ k = 12 ∨ k = 13 ∨ k = 14 := by omega
  · exact ⟨0x4C, by decide, .inl (by decide)⟩
  · exact ⟨0x41, by decide, .inl (by decide)⟩
  · exact ⟨0x4E, by decide, .inl (by decide)⟩
  · exact ⟨0x44, by decide, .inl (by decide)⟩
theorem witness_HdrTitleDecodes :
    tetrisTitle.length = 16 ∧ BytesAt tetrisState 0x0134 tetrisTitle ∧ TitleLength tetrisTitle 16 ∧
      (cut 0x134).len ≤ 0x0134 ∧ 0x0134 < (cut 0x135).len ∧ (cut 0x143).len < 0x0144 := by
  refine ⟨by decide, by unfold BytesAt; decide, ⟨fun h => absurd h not_manufPresent_tetris, fun _ h => ?_, fun _ _ => rfl⟩,
    by decide, by decide, by decide⟩
  exact absurd h (by unfold CgbPresent; decide)
theorem witness_HdrManufacturerDecodes :
    BytesAt (loaded minimalParams (titled (text "SUPER MARIOLAND" ++ [0]))) 0x0134 (text "SUPER MARIOLAND" ++ [0]) ∧
      ManufPresent (text "SUPER MARIOLAND" ++ [0]) ∧ BytesAt tetrisState 0x0134 tetrisTitle ∧ ¬ManufPresent tetrisTitle :=
  ⟨by unfold BytesAt; decide, manufPresent_land, by unfold BytesAt; decide, not_manufPresent_tetris⟩
theorem witness_HdrLicenseeResolves :
    Memory.read tetrisState.mem 0x014B = some 0x01 ∧ oldLicRom tetrisState.par 0x01 = some (text "Nintendo") ∧
      Memory.read (changed 0x14B 0x00).mem 0x014B = some 0x00 ∧ oldLicRom tetrisState.par 0x00 = none ∧
      Memory.read (changed 0x14B 0x33).mem 0x014B = some 0x33 ∧ Memory.read (changed 0x14B 0x33).mem 0x0144 = some 0x00 ∧
      Memory.read (changed 0x14B 0x33).mem 0x0145 = some 0x00 ∧ newLicRom tetrisState.par 0x0000 = none ∧
      newLicRom { minimalParams with newLic := [(0x3031, text "Nintendo")] } 0x3031 = some (text "Nintendo") ∧
      (cut 0x14B).len ≤ 0x014B := by decide
theorem witness_ChkHdrRecurrence :
    0x014D ≤ (cut 0x14D).len ∧ (cut 0x134).len ≤ 0x0134 ∧ 0x0134 < (cut 0x135).len ∧ (cut 0x14C).len < 0x014D := by decide
theorem witness_ChkHdrSeesEveryByte :
    (∀ j, j ≤ 0x014C → 0x0134 ≤ j → j ≠ 0x0134 → Memory.read tetrisState.mem j = Memory.read (changed 0x134 0x55).mem j) ∧
      Memory.read tetrisState.mem 0x0134 ≠ Memory.read (changed 0x134 0x55).mem 0x0134 ∧
      Replies .chkHdr tetrisState (.ok (.byte 0x0B) []) ∧ Replies .chkHdr (changed 0x134 0x55) (.ok (.byte 0x0A) []) := by
  refine ⟨?_, by decide, by rfl, by rfl⟩
  intro j h1 h2 h3
  obtain ⟨k, rfl⟩ := Nat.exists_eq_add_of_le h2
  have hk : k < 25 := by omega
  revert h3
  exact (by decide : ∀ k, k < 25 → 0x0134 + k ≠ 0x0134 →
    Memory.read tetrisState.mem (0x0134 + k) = Memory.read (changed 0x134 0x55).mem (0x0134 + k)) k hk
theorem witness_ChkGlbSums :
    tetrisState.par.gchkRange = .whole ∧ 0x014E ≤ (cut 0x14E).len ∧ (cut 0x100).len ≤ 0x0100 ∧ 0x0100 < (cut 0x101).len ∧
      (cut 0x14D).len < 0x014E ∧ (loaded { minimalParams with gchkRange := .header } tetris).par.gchkRange = .header := by decide
theorem witness_ValLogoCompares :
    (cut 0x133).len < 0x0134 ∧ 0x0134 ≤ (cut 0x134).len ∧ BytesAt tetrisState 0x0104 refLogo.toList ∧
      refLogo.toList = tetrisState.par.logoRef.toList ∧ (refLogo.toList.set 0 0) ≠ tetrisState.par.logoRef.toList := by
  refine ⟨by decide, by decide, by unfold BytesAt; decide, by decide, by decide⟩
theorem witness_ValRamConsistency :
    (∃ e, Replies .hdrCtype (changed 0x147 0x50) (.err e)) ∧ (∃ e, Replies .hdrRamsz (cut 0x149) (.err e)) ∧
      Replies .hdrCtype (cut 0x149) (.ok (.ctype { plainType with rom := true }) []) ∧
      Replies .hdrRamsz tetrisState (.ok (.ramBytes 0) []) ∧
      Replies .hdrCtype (changed 0x147 0x13) (.ok (.ctype { plainType with mbc := .mbc3, ram := true, battery := true }) []) :=
  ⟨⟨_, rfl⟩, ⟨_, rfl⟩, rfl, rfl, rfl⟩
theorem witness_ValHeaderChecksum :
    (∃ e, Replies .chkHdr (cut 0x14C) (.err e)) ∧ Replies .chkHdr (cut 0x14D) (.ok (.byte 0x0B) []) ∧
      (∃ e, Replies .hdrHchk (cut 0x14D) (.err e)) ∧ Replies .hdrHchk tetrisState (.ok (.byte 0x0B) []) ∧
      Replies .hdrHchk (changed 0x14D 0x0C) (.ok (.byte 0x0C) []) := ⟨⟨_, rfl⟩, rfl, ⟨_, rfl⟩, rfl, rfl⟩
theorem witness_ValGlobalChecksum :
    (∃ e, Replies .chkGlb (loaded { minimalParams with gchkRange := .header } []) (.err e)) ∧
      (∃ e, Replies .hdrGchk (cut 0x14F) (.err e)) ∧ Replies .chkGlb tetrisState (.ok (.half 0x1841) []) ∧
      Replies .hdrGchk tetrisState (.ok (.half 0x1841) []) ∧ Replies .hdrGchk (changed 0x14F 0x00) (.ok (.half 0x1800) []) :=
  ⟨⟨_, rfl⟩, ⟨_, rfl⟩, rfl, rfl, rfl⟩
theorem witness_ReadersDependOnTheBufferOnly :
    readsOnly .hdrAll = true ∧ small.mem = (after .disStep { small with status := .running }).mem ∧
      small.par = (after .disStep { small with status := .running }).par := by decide
theorem witness_ResponsesAreRepeatable :
    readsOnly (.bufGetb 1) = true ∧ (∀ j ∈ [Instr.disStart .strict, .disStep], writesBuffer j = false) ∧
      (∃ t, Runs [.disStart .strict, .disStep] small t) ∧ Replies (.bufGetb 1) small (.ok (.byte 0xC3) []) :=
  ⟨rfl, by decide, ⟨_, _, rfl, _, rfl, rfl⟩, rfl⟩
theorem witness_DisStepGuards :
    small.status ≠ .running ∧ (run .strict minimalParams []).status = .running ∧
      (run .strict minimalParams []).i = (run .strict minimalParams []).len ∧
      ∃ t, exec .hdrAll { small with status := .done } = .next t := ⟨by decide, rfl, rfl, _, rfl⟩
theorem witness_DisStepStandardPath :
    Memory.read (run .strict minimalParams [0xC3, 0x50, 0x01]).mem 0 = some 0xC3 ∧ (0xC3 : Byte) ≠ 0xCB ∧
      opromStd minimalParams 0xC3 = some ⟨text "JP a16", .two, 16, 0⟩ ∧
      0 + 1 + count .two ≤ (run .strict minimalParams [0xC3, 0x50, 0x01]).len ∧
      OperandAt (run .strict minimalParams [0xC3, 0x50, 0x01]) 1 .two 0x0150 :=
  ⟨by decide, by decide, by decide, by decide, 0x50, 0x01, by decide, by decide, by decide⟩
theorem witness_DisStepPrefixedPath :
    Memory.read (run .strict referenceParams [0xCB, 0xCB]).mem 0 = some 0xCB ∧
      Memory.read (run .strict referenceParams [0xCB, 0xCB]).mem 1 = some 0xCB ∧
      opromCb referenceParams 0xCB = some ⟨text "SET 1,E", .zero, 8, 0⟩ ∧
      0 + 2 + count .zero ≤ (run .strict referenceParams [0xCB, 0xCB]).len ∧
      OperandAt (run .strict referenceParams [0xCB, 0xCB]) 2 .zero 0 :=
  ⟨by decide, by decide, by decide, by decide, rfl⟩
theorem witness_DisStepInsufficientBytes :
    Memory.read (run .strict minimalParams [0xCB]).mem 0 = some 0xCB ∧ (run .strict minimalParams [0xCB]).len ≤ 0 + 1 ∧
      OpcodeAt (run .strict referenceParams [0x3E]) false 0x3E ∧ (run .strict referenceParams [0x3E]).len ≤ 0 + 0 + 1 ∧
      OpcodeAt (run .strict minimalParams [0xC3]) false 0xC3 ∧ (run .strict minimalParams [0xC3]).len ≤ 0 + 0 + 1 ∧
      OpcodeAt (run .strict minimalParams [0xC3, 0x50]) false 0xC3 ∧ 0 + 0 + 1 < (run .strict minimalParams [0xC3, 0x50]).len ∧
      (run .strict minimalParams [0xC3, 0x50]).len < 0 + 0 + 3 ∧
      (entryOf (run .strict referenceParams [0x3E]) false 0x3E).map OpEntry.nops = some .one ∧
      (entryOf (run .strict minimalParams [0xC3]) false 0xC3).map OpEntry.nops = some .two := by
  unfold OpcodeAt; decide
theorem witness_DisStepUnknownOpcode :
    OpcodeAt (run .strict minimalParams [0xCB, 0x37]) true 0x37 ∧ entryOf (run .strict minimalParams [0xCB, 0x37]) true 0x37 = none ∧
      Memory.read (run .strict minimalParams [0xCB, 0x37]).mem 0 = some 0xCB ∧
      OpcodeAt (run .permissive minimalParams [0x3E]) false 0x3E ∧ entryOf (run .permissive minimalParams [0x3E]) false 0x3E = none := by
  unfold OpcodeAt; decide
theorem witness_DisStepHasNoLookAhead :
    (Memory.ofImage [0x00, 0x01, 0x02, 0x03, 0xFF]).length = (Memory.ofImage [0x00, 0x01, 0x02, 0x03, 0x04]).length ∧
      (∀ k, k ≤ 3 → Memory.read (Memory.ofImage [0x00, 0x01, 0x02, 0x03, 0xFF]) (0 + k) =
        Memory.read (run .strict minimalParams [0x00, 0x01, 0x02, 0x03, 0x04]).mem (0 + k)) ∧
      ∃ t, exec .disStep (run .strict minimalParams [0x00, 0x01, 0x02, 0x03, 0x04]) = .next t := by
  refine ⟨rfl, ?_, _, rfl⟩
  intro k h
  exact (by decide : ∀ k, k < 4 → Memory.read (Memory.ofImage [0x00, 0x01, 0x02, 0x03, 0xFF]) (0 + k) =
    Memory.read (run .strict minimalParams [0x00, 0x01, 0x02, 0x03, 0x04]).mem (0 + k)) k (by omega)
theorem witness_DisRunTilesTheBuffer :
    ∃ t l d, exec (.disRun .permissive) (loaded minimalParams [0xCB, 0x37, 0x00]) = .next t ∧
      t.resp = some (.ok (.listing l) d) := ⟨_, _, _, rfl, rfl⟩
theorem witness_ZeroBytesAreNops :
    ∀ a, a < (loaded minimalParams [0x00, 0x00]).len → Memory.read (loaded minimalParams [0x00, 0x00]).mem a = some 0 := by decide
theorem witness_NopEmits :
    (run .strict minimalParams [0x00]).status = .running ∧ (run .strict minimalParams [0x00]).i < (run .strict minimalParams [0x00]).len := by
  decide
theorem witness_JpEmits :
    (run .strict minimalParams [0xC3, 0x50, 0x01]).status = .running ∧ 0 + 3 ≤ (run .strict minimalParams [0xC3, 0x50, 0x01]).len ∧
      (run .strict minimalParams [0xC3]).len = 0 + 1 ∧ (run .strict minimalParams [0xC3, 0x50]).len = 0 + 2 := by decide
theorem witness_PrefixCbEmits :
    (run .strict minimalParams [0xCB]).len = 0 + 1 ∧ 0 + 2 ≤ (run .strict minimalParams [0xCB, 0x37]).len ∧
      opromCb minimalParams 0x37 = none ∧ opromCb referenceParams 0x37 = some ⟨text "SWAP A", .zero, 8, 0xF0⟩ ∧
      opromCb { minimalParams with cbRows := [row 0x37 "X" .two 8 0] } 0x37 = some ⟨text "X", .two, 8, 0⟩ ∧
      opromCb { minimalParams with cbRows := [row 0x37 "X" .one 8 0] } 0x37 = some ⟨text "X", .one, 8, 0⟩ := by decide
theorem witness_UnknownEmits :
    (run .permissive minimalParams [0x3E]).status = .running ∧ 0 < (run .permissive minimalParams [0x3E]).len ∧
      (run .permissive minimalParams [0x3E]).mode = .permissive ∧ (run .strict minimalParams [0x3E]).mode = .strict := by decide
theorem witness_EpdInsertAddsTheEntryPoint :
    0x0104 ≤ (cut 0x104).len ∧ (cut 0x100).len ≤ 0x0100 ∧ 0x0100 < (cut 0x101).len ∧ (cut 0x103).len < 0x0104 := by decide
theorem witness_EpdClearAndSorted :
    ∀ k ∈ { small with keys := [[0x00, 0xC3, 0x50, 0x01], [0xF3, 0xC3, 0x00, 0x02]] }.keys, k.length = 4 := by decide
theorem witness_InsertOrderDoesNotMatter :
    keysOk [[0x00, 0xC3, 0x50, 0x01], [0xF3, 0xC3, 0x00, 0x02]] ∧
      [tetrisState.mem, small.mem].Perm [small.mem, tetrisState.mem] := ⟨by decide, .swap _ _ _⟩
theorem witness_ErrorsArePrecise :
    (∃ t e, exec (.bufGetb 4) small = .next t ∧ t.resp = some (.err e)) ∧
      (∃ t e, exec .disStep (run .strict minimalParams [0xCB]) = .next t ∧ t.resp = some (.err e)) ∧
      ∃ t e, exec (.disRun .strict) (loaded minimalParams [0x00, 0xCB]) = .next t ∧ t.resp = some (.err e) :=
  ⟨⟨_, _, rfl, rfl⟩, ⟨_, _, rfl, rfl⟩, ⟨_, _, rfl, rfl⟩⟩
theorem witness_WhoWritesWhat :
    (∃ t, exec .epdInsert tetrisState = .next t) ∧ writesBuffer .epdInsert = false ∧ startsAnew .epdInsert = false ∧
      disassembles .epdInsert = false := ⟨⟨_, rfl⟩, rfl, rfl, rfl⟩
theorem witness_ParametersNeverChange :
    (∃ t, exec .hdrAll tetrisState = .next t) ∧ ∃ t, step { small with inbox := [[0x41]] } = .next t := ⟨⟨_, rfl⟩, ⟨_, rfl⟩⟩
theorem witness_LoadForgetsHistory :
    ([0x00] : List Byte).length ≤ 65536 ∧ small.par = (run .permissive minimalParams [0xCB]).par := by decide
theorem witness_BeforeTheFirstLoad : State.reset.mem = [] ∧ State.reset.keys = [] ∧ State.reset.par.gchkRange = .whole := by decide
theorem witness_StatusRegistersRead : (after .disStep (run .permissive minimalParams [0xCB, 0xCB])).Inv := by decide

end Sys2Proof.Tests
end

/-! PROOF. Errors are precise (R293): an error response changes the response alone, or ends the run in ERROR. The
argument has three parts: the operations outside the disassembler, one step of a run, and the steps of `DIS.RUN`. -/

namespace Sys2Proof.Proofs

open Sys2Proof.Machine Sys2Proof.Spec

/-! ## Responses -/

/-- `respond` changes the response alone, so an error it answers is the error it was given. -/
theorem respond_err {r : Response} {s t : State} {e : ErrRec} (h : respond r s = .next t)
    (he : t.resp = some (.err e)) : r = .err e ∧ t = { s with resp := some (.err e) } := by
  cases h
  cases he
  exact ⟨rfl, rfl⟩

theorem respond_ok_not_err {v : Value} {d : List ErrRec} {s t : State} {e : ErrRec}
    (h : respond (.ok v d) s = .next t) : t.resp ≠ some (.err e) := by
  intro he
  obtain ⟨hr, -⟩ := respond_err h he
  cases hr

/-! ## Operations outside the disassembler -/

theorem execBufLoad_err {image : List Byte} {name : Text} {s t : State} {e : ErrRec}
    (h : execBufLoad image name s = .next t) (he : t.resp = some (.err e)) :
    t = { s with resp := some (.err e) } := by
  unfold execBufLoad at h
  split at h
  · exact (respond_err h he).2
  · exact absurd he (respond_ok_not_err h)

theorem execBufPutr_err {range : RangeArg} {data : List Byte} {s t : State} {e : ErrRec}
    (h : execBufPutr range data s = .next t) (he : t.resp = some (.err e)) :
    t = { s with resp := some (.err e) } := by
  unfold execBufPutr at h
  split at h
  · exact (respond_err h he).2
  · split at h
    · exact (respond_err h he).2
    · split at h
      · exact (respond_err h he).2
      · exact absurd he (respond_ok_not_err h)

theorem execEpdInsert_err {s t : State} {e : ErrRec} (h : execEpdInsert s = .next t)
    (he : t.resp = some (.err e)) : t = { s with resp := some (.err e) } := by
  unfold execEpdInsert at h
  split at h
  · exact (respond_err h he).2
  · exact absurd he (respond_ok_not_err h)

/-- Outside the disassembler an error changes the response alone (R292, R293). The operations not named here only
answer: they change nothing else in any case. -/
theorem exec_err_of_not_disassembles {i : Instr} {s t : State} {e : ErrRec} (hi : disassembles i = false)
    (h : exec i s = .next t) (he : t.resp = some (.err e)) : t = { s with resp := some (.err e) } := by
  cases i with
  | disStart | disStep | disRun | nop | jpA16 | prefixCb | unknown => cases hi
  | bufLoad image name => exact execBufLoad_err h he
  | bufPutr range data => exact execBufPutr_err h he
  | epdClear => exact absurd he (respond_ok_not_err h)
  | epdInsert => exact execEpdInsert_err h he
  | _ => exact (respond_err h he).2

/-! ## One step of a run -/

/-- The result `r` of a step from `s` is no error but the failure of the run. -/
def OnlyFailsRun (s : State) (r : State × Reply StepEnd) : Prop := ∀ e, r.2 = .err e → r = failRun e s

theorem failRun_onlyFailsRun (e : ErrRec) (s : State) : OnlyFailsRun s (failRun e s) := by
  intro e' h
  cases h
  rfl

theorem missOpcode_onlyFailsRun (pre : Bool) (op b0 : Byte) (s : State) :
    OnlyFailsRun s (missOpcode pre op b0 s) := by
  unfold missOpcode
  cases s.mode with
  | strict => exact failRun_onlyFailsRun _ s
  | permissive => exact fun _ h => nomatch h

theorem hitOpcode_onlyFailsRun (pre : Bool) (op : Byte) (ent : OpEntry) (val : List Byte → Half) (s : State) :
    OnlyFailsRun s (hitOpcode pre op ent val s) := by
  unfold hitOpcode
  split
  · exact failRun_onlyFailsRun _ s
  · exact fun _ h => nomatch h

theorem standardAt_onlyFailsRun (op : Byte) (operand : List Byte) (s : State) :
    OnlyFailsRun s (standardAt op operand s) := by
  unfold standardAt
  split
  · exact missOpcode_onlyFailsRun _ _ _ s
  · exact hitOpcode_onlyFailsRun _ _ _ _ s

theorem prefixedAt_onlyFailsRun (op : Byte) (operand : List Byte) (s : State) :
    OnlyFailsRun s (prefixedAt op operand s) := by
  unfold prefixedAt
  split
  · exact missOpcode_onlyFailsRun _ _ _ s
  · exact hitOpcode_onlyFailsRun _ _ _ _ s

/-- The result `r` of an operation of the disassembler in `s`: if it is an error, then the request was refused and
nothing changed, or the run ended in ERROR (R226, R232). -/
def RefusesOrFailsRun (s : State) (r : State × Reply StepEnd) : Prop :=
  ∀ e, r.2 = .err e → r = (s, .err e) ∨ r = failRun e s

theorem onRunning_refusesOrFailsRun {s : State} {act : State → State × Reply StepEnd}
    (hact : OnlyFailsRun s (act s)) : RefusesOrFailsRun s (onRunning s act) := by
  intro e
  unfold onRunning
  split
  · intro h
    cases h
    exact .inl rfl
  · split
    · intro h
      cases h
    · exact fun h => .inr (hact e h)

/-- The step of a run in progress: it fails the run, finds the end of the buffer, or emits and goes on (R226, R232). -/
theorem disStep_running_cases {s : State} (hs : s.status = .running) :
    (∃ e, disStep s = failRun e s) ∨ disStep s = ({ s with status := .done }, .ok .done []) ∨
      ∃ s', s'.status = .running ∧ disStep s = (s', .ok .emitted []) := by
  rcases disStep_cases s with ⟨hn, -⟩ | ⟨-, -, h⟩ | ⟨-, -, h | ⟨rec, h, -⟩ | ⟨-, -, e, b, -, h⟩⟩
  · exact absurd hs hn
  · exact .inr (.inl h)
  · exact .inl h
  · exact .inr (.inr ⟨emit rec s, hs, h⟩)
  · exact .inr (.inr ⟨{ emit (sentinel s.par b) s with dwarn := s.dwarn ++ [e] }, hs, h⟩)

theorem disStep_refusesOrFailsRun (s : State) : RefusesOrFailsRun s (disStep s) := by
  intro e he
  by_cases hs : s.status = .running
  · rcases disStep_running_cases hs with ⟨e', h⟩ | h | ⟨s', -, h⟩
    · rw [h] at he ⊢
      cases he
      exact .inr rfl
    · rw [h] at he
      cases he
    · rw [h] at he
      cases he
  · have h : disStep s = (s, .err (refusedErr .notRunning s.len)) := by simp [disStep, onRunning, hs]
    rw [h] at he ⊢
    cases he
    exact .inl rfl

/-- The response to a step that is refused or fails the run. -/
theorem respondStep_err {s t : State} {r : State × Reply StepEnd} {e : ErrRec} (hr : RefusesOrFailsRun s r)
    (h : respondStep r = .next t) (he : t.resp = some (.err e)) :
    t = { s with resp := some (.err e) } ∨ t = { s with status := .error, err := some e, resp := some (.err e) } := by
  obtain ⟨hmap, rfl⟩ := respond_err h he
  have hsnd : r.2 = .err e := by
    cases hr2 : r.2 with
    | ok v d => rw [hr2] at hmap; cases hmap
    | err e' => rw [hr2] at hmap; cases hmap; rfl
  rcases hr e hsnd with rfl | rfl
  · exact .inl rfl
  · exact .inr rfl

/-! ## The steps of `DIS.RUN` -/

/-- The result `r` of a step with `o` as the last response. -/
def withResp (o : Option Response) (r : State × Reply StepEnd) : State × Reply StepEnd :=
  ({ r.1 with resp := o }, r.2)

theorem missOpcode_resp (pre : Bool) (op b0 : Byte) (s : State) (o : Option Response) :
    missOpcode pre op b0 { s with resp := o } = withResp o (missOpcode pre op b0 s) := by
  obtain ⟨_, _, _, _, mode⟩ := s
  cases mode with
  | strict => rfl
  | permissive => rfl

theorem hitOpcode_resp (pre : Bool) (op : Byte) (ent : OpEntry) (val : List Byte → Half) (s : State)
    (o : Option Response) : hitOpcode pre op ent val { s with resp := o } = withResp o (hitOpcode pre op ent val s) := by
  unfold hitOpcode
  dsimp only [State.buf]
  cases readOperand (s.mem.map Prod.snd) (s.i + pre.toNat) (opBytes ent.nops) with
  | err e => rfl
  | ok bytes d => rfl

theorem stepPrefixed_resp (s : State) (o : Option Response) :
    stepPrefixed { s with resp := o } = withResp o (stepPrefixed s) := by
  unfold stepPrefixed
  dsimp only [State.buf]
  cases memByte (s.mem.map Prod.snd) (s.i + 1) .prefixedOpcode with
  | err e => rfl
  | ok op d =>
    dsimp only
    cases opromCb s.par op with
    | none => exact missOpcode_resp ..
    | some ent => exact hitOpcode_resp ..

theorem stepStandard_resp (b0 : Byte) (s : State) (o : Option Response) :
    stepStandard b0 { s with resp := o } = withResp o (stepStandard b0 s) := by
  unfold stepStandard
  dsimp only
  cases opromStd s.par b0 with
  | none => exact missOpcode_resp ..
  | some ent => exact hitOpcode_resp ..

theorem onRunning_resp {act : State → State × Reply StepEnd} {s : State} {o : Option Response}
    (hact : act { s with resp := o } = withResp o (act s)) :
    onRunning { s with resp := o } act = withResp o (onRunning s act) := by
  by_cases hrun : s.status = .running
  · by_cases hend : s.i = s.mem.length
    · simp [onRunning, State.len, hrun, hend, withResp]
    · simpa [onRunning, State.len, hrun, hend] using hact
  · simp [onRunning, State.len, hrun, withResp]

/-- A step neither reads nor writes the last response. -/
theorem disStep_resp (s : State) (o : Option Response) :
    disStep { s with resp := o } = withResp o (disStep s) := by
  refine onRunning_resp ?_
  dsimp only [State.buf]
  cases memByte (s.mem.map Prod.snd) s.i .opcode with
  | err e => rfl
  | ok b0 d =>
    dsimp only
    split
    · exact stepPrefixed_resp s o
    · exact stepStandard_resp b0 s o

/-- The induction over the steps of `DIS.RUN`: each pass of the loop that emits is one `DIS.STEP`, and the pass that
ends in an error fails the run in the state reached so far. The last response `o` is free, because `DIS.STEP` writes it
and a pass of the loop does not (`disStep_resp`). -/
theorem runLoop_err {n : Nat} {s s' : State} {e : ErrRec} (o : Option Response) (hs : s.status = .running)
    (h : runLoop n s = some (s', .err e)) :
    ∃ k u, Steps k { s with resp := o } u ∧
      { s' with resp := some (.err e) } = { u with status := .error, err := some e, resp := some (.err e) } := by
  induction n generalizing s o with
  | zero => cases h
  | succ n ih =>
    unfold runLoop at h
    rcases disStep_running_cases hs with ⟨e', hd⟩ | hd | ⟨s₁, hs₁, hd⟩ <;> rw [hd] at h
    · cases h
      exact ⟨0, _, rfl, rfl⟩
    · cases h
    · obtain ⟨k, u, hk, hu⟩ := ih (some (.ok (.stepEnd .emitted) [])) hs₁ h
      have hstep : exec .disStep { s with resp := o } =
          .next { s₁ with resp := some (.ok (.stepEnd .emitted) []) } := by
        change respondStep (disStep { s with resp := o }) = _
        rw [disStep_resp, hd]
        rfl
      exact ⟨k + 1, u, ⟨hs, _, hstep, hk⟩, hu⟩

theorem execDisRun_err {m : Mode} {s t : State} {e : ErrRec} (h : execDisRun m s = .next t)
    (he : t.resp = some (.err e)) :
    ∃ k u, Steps k (started m s) u ∧ t = { u with status := .error, err := some e, resp := some (.err e) } := by
  unfold execDisRun at h
  split at h
  · next s' r hloop =>
    obtain ⟨hmap, rfl⟩ := respond_err h he
    cases r with
    | ok l d => cases hmap
    | err e' =>
      cases hmap
      exact runLoop_err s.resp rfl hloop
  · cases h

/-! ## Every operation -/

/-- What an error of the disassembler's operations other than `DIS.RUN` changes (R226, R293). -/
theorem exec_err_of_disassembles {i : Instr} {s t : State} {e : ErrRec} (hi : disassembles i = true)
    (hrun : ∀ m, i ≠ .disRun m) (h : exec i s = .next t) (he : t.resp = some (.err e)) :
    t = { s with resp := some (.err e) } ∨ t = { s with status := .error, err := some e, resp := some (.err e) } := by
  cases i with
  | disStart m => exact absurd he (respond_ok_not_err h)
  | disStep => exact respondStep_err (disStep_refusesOrFailsRun s) h he
  | disRun m => exact absurd rfl (hrun m)
  | nop => exact respondStep_err (onRunning_refusesOrFailsRun (standardAt_onlyFailsRun _ _ s)) h he
  | jpA16 target => exact respondStep_err (onRunning_refusesOrFailsRun (standardAt_onlyFailsRun _ _ s)) h he
  | prefixCb o l hb =>
    refine respondStep_err (onRunning_refusesOrFailsRun ?_) h he
    split
    · exact failRun_onlyFailsRun _ s
    · exact prefixedAt_onlyFailsRun _ _ s
  | unknown x => exact respondStep_err (onRunning_refusesOrFailsRun (missOpcode_onlyFailsRun _ _ _ s)) h he
  | _ => cases hi

/-- Settles O54: outside the disassembler an error changes the response alone, a step is refused or fails the run, and
`DIS.RUN` fails as the step does that its loop has reached. -/
theorem errorsArePrecise : Obligations.ErrorsArePrecise := by
  unfold Obligations.ErrorsArePrecise
  intro i s t e h he
  by_cases hrun : ∃ m, i = .disRun m
  · obtain ⟨m, rfl⟩ := hrun
    obtain ⟨k, u, hk, ht⟩ := execDisRun_err h he
    exact .inr (.inr ⟨m, k, u, rfl, hk, ht⟩)
  · have hrun' : ∀ m, i ≠ .disRun m := fun m hm => hrun ⟨m, hm⟩
    cases hi : disassembles i with
    | false => exact .inl (exec_err_of_not_disassembles hi h he)
    | true =>
      rcases exec_err_of_disassembles hi hrun' h he with ht | ht
      · exact .inl ht
      · exact .inr (.inl ⟨rfl, hrun', ht⟩)

end Sys2Proof.Proofs

/-! PROOF. The state as a whole: what each operation may write, what it keeps, and the invariant. Everything is read off
one inversion lemma, `exec_effect`: the finitely many ways in which an operation can change the state. -/

namespace Sys2Proof.Proofs

open Sys2Proof.Machine Sys2Proof.Spec

/-! ## What one step of a run can do -/

/-- The state `u` after one step of the disassembler from `s` (R226, R231, R232). The bounds of the records are claimed
where `I ≤ LEN`, which the invariant gives (R26). -/
inductive StepEffect (s : State) : State → Prop
  | refuse : StepEffect s s
  | finish (hrun : s.status = .running) (hend : s.i = s.len) : StepEffect s { s with status := .done }
  | fail (e : ErrRec) : StepEffect s { s with status := .error, err := some e }
  | emit (r : InstrRec) (hrun : s.status = .running) (hok : recordOk r = true) (hknown : r.unknown = false)
      (hfit : s.i ≤ s.len → s.i + r.length ≤ s.len) : StepEffect s (emit r s)
  | substitute (b : Byte) (e : ErrRec) (hrun : s.status = .running) (hmode : s.mode = .permissive)
      (hkind : e.kind = .unknownOpcode) (hfit : s.i ≤ s.len → s.i < s.len) :
      StepEffect s { Machine.emit (sentinel s.par b) s with dwarn := s.dwarn ++ [e] }

theorem missOpcode_effect (pre : Bool) (op b0 : Byte) {s : State} (hrun : s.status = .running)
    (hfit : s.i ≤ s.len → s.i < s.len) : StepEffect s (missOpcode pre op b0 s).1 := by
  unfold missOpcode
  cases hm : s.mode with
  | strict => exact .fail _
  | permissive => exact .substitute b0 _ hrun hm rfl hfit

/-- The operand bytes that were read: none for a count of 0, and inside the buffer when the opcode byte is. -/
theorem readOperand_ok {buf l : List Byte} {pos n : Nat} {d : List ErrRec} (h : readOperand buf pos n = .ok l d) :
    (n = 0 → l = []) ∧ (pos < buf.length → pos + 1 + n ≤ buf.length) := by
  constructor
  · rintro rfl
    cases h
    rfl
  · intro hpos
    rcases readOperand_cases buf pos n hpos with ⟨hfit, -⟩ | ⟨-, e, he⟩
    · exact hfit
    · rw [he] at h
      cases h

theorem hitOpcode_effect (pre : Bool) (op : Byte) (ent : OpEntry) (val : List Byte → Half) {s : State}
    (hrun : s.status = .running) (hin : s.i ≤ s.len → s.i + pre.toNat < s.len)
    (hval : opBytes ent.nops = 0 → val [] = 0) : StepEffect s (hitOpcode pre op ent val s).1 := by
  unfold hitOpcode
  cases hread : readOperand s.buf (s.i + pre.toNat) (opBytes ent.nops) with
  | err e => exact .fail _
  | ok bytes d =>
    obtain ⟨hnone, hbytes⟩ := readOperand_ok hread
    refine .emit _ hrun (entryRec_ok pre op ent _ fun h0 => ?_) rfl fun hi => ?_
    · rw [hnone h0]
      exact hval h0
    · have := hbytes (by simpa using hin hi)
      simp only [buf_length] at this
      simp only [entryRec]
      omega

theorem standardAt_effect {op : Byte} {operand : List Byte} {s : State} (hrun : s.status = .running)
    (hin : s.i ≤ s.len → s.i < s.len)
    (hval : ∀ ent, opromStd s.par op = some ent → opBytes ent.nops = 0 → operandValue operand = 0) :
    StepEffect s (standardAt op operand s).1 := by
  unfold standardAt
  cases hent : opromStd s.par op with
  | none => exact missOpcode_effect _ _ _ hrun hin
  | some ent => exact hitOpcode_effect _ _ _ _ hrun hin (hval ent hent)

theorem prefixedAt_effect {op : Byte} {operand : List Byte} {s : State} (hrun : s.status = .running)
    (hin : s.i + 1 < s.len) : StepEffect s (prefixedAt op operand s).1 := by
  unfold prefixedAt
  split
  · exact missOpcode_effect _ _ _ hrun fun _ => by omega
  · refine hitOpcode_effect _ _ _ _ hrun (fun _ => hin) fun h0 => ?_
    rw [h0]
    rfl

/-- The guard of every step leaves a running state before the end of the buffer to the action. -/
theorem onRunning_effect {s : State} {act : State → State × Reply StepEnd}
    (hact : s.status = .running → (s.i ≤ s.len → s.i < s.len) → StepEffect s (act s).1) :
    StepEffect s (onRunning s act).1 := by
  unfold onRunning
  split
  · exact .refuse
  · next hrun =>
    split
    · next hend => exact .finish (not_not.mp hrun) hend
    · next hend => exact hact (not_not.mp hrun) fun hi => Nat.lt_of_le_of_ne hi hend

theorem disStep_effect (s : State) : StepEffect s (disStep s).1 := by
  rcases disStep_cases s with ⟨-, h⟩ | ⟨hrun, hend, h⟩ | ⟨hrun, -, ⟨e, h⟩ | ⟨r, h, hok, hknown, -, hfit⟩ |
    ⟨hmode, hin, e, b, hkind, h⟩⟩ <;> rw [h]
  · exact .refuse
  · exact .finish hrun hend
  · exact .fail e
  · exact .emit r hrun hok hknown fun _ => hfit
  · exact .substitute b e hrun hmode hkind fun _ => hin

/-- The steps of `DIS.RUN`'s loop, however many there are. -/
theorem runLoop_effects {n : Nat} {s u : State} {r : Reply (List InstrPos)} (h : runLoop n s = some (u, r)) :
    Relation.ReflTransGen StepEffect s u := by
  induction n generalizing s with
  | zero => cases h
  | succ n ih =>
    have hstep := disStep_effect s
    unfold runLoop at h
    split at h
    · next hd =>
      rw [hd] at hstep
      exact .head hstep (ih h)
    · next hd =>
      rw [hd] at hstep
      cases h
      exact .single hstep
    · next hd =>
      rw [hd] at hstep
      cases h
      exact .single hstep

/-! ## What an operation can do -/

/-- The state `u` that the instruction `i` makes of `s`, but for the response. -/
inductive Effect (s : State) : Instr → State → Prop
  | answer (i : Instr) : Effect s i s
  | load {image : List Byte} (name : Text) (hlen : image.length ≤ 65536) :
      Effect s (.bufLoad image name) (loadImage image name s)
  | put (range : RangeArg) {a : Nat} {data : List Byte} (hrw : s.par.bufRw = true) (hfit : a + data.length ≤ s.len) :
      Effect s (.bufPutr range data) { s with mem := s.mem.write a data }
  | clear : Effect s .epdClear { s with keys := [] }
  | insert {k : List Byte} (hk : k.length = 4) : Effect s .epdInsert { s with keys := insertKey k s.keys }
  | start (m : Mode) : Effect s (.disStart m) (startRun m s)
  | run {m : Mode} {u : State} (h : Relation.ReflTransGen StepEffect (startRun m s) u) : Effect s (.disRun m) u
  | step {i : Instr} {u : State} (hi : disassembles i = true) (h : StepEffect s u) : Effect s i u

/-- The next state `t` is an effect of `i` on `s`, with a response. -/
def Completes (i : Instr) (s t : State) : Prop := ∃ u r, Effect s i u ∧ t = u.answer r

theorem completes_of_respond {i : Instr} {s t u : State} {r : Response} (hu : Effect s i u)
    (h : respond r u = .next t) : Completes i s t := by
  cases h
  exact ⟨u, r, hu, rfl⟩

theorem execBufLoad_completes {image : List Byte} {name : Text} {s t : State}
    (h : execBufLoad image name s = .next t) : Completes (.bufLoad image name) s t := by
  unfold execBufLoad at h
  split at h
  · exact completes_of_respond (.answer _) h
  · next hlen => exact completes_of_respond (.load name (Nat.not_lt.mp hlen)) h

/-- A range that passes the check lies inside the buffer (R122). -/
theorem checkRange_ok {len a e : Nat} {r : RangeArg} {d : List ErrRec} (h : checkRange len r = .ok (a, e) d) :
    a ≤ e ∧ e ≤ len := by
  rcases checkRange_cases len r with ⟨-, hc⟩ | ⟨-, -, hc⟩ | ⟨-, -, -, hc⟩ | ⟨-, hle, hlen, hc⟩ <;> rw [hc] at h <;>
    cases h
  exact ⟨hle, hlen⟩

theorem execBufPutr_completes {range : RangeArg} {data : List Byte} {s t : State}
    (h : execBufPutr range data s = .next t) : Completes (.bufPutr range data) s t := by
  unfold execBufPutr at h
  split at h
  · exact completes_of_respond (.answer _) h
  · next hrw =>
    split at h
    · exact completes_of_respond (.answer _) h
    · next a e d hrange =>
      obtain ⟨hle, hlen⟩ := checkRange_ok hrange
      split at h
      · exact completes_of_respond (.answer _) h
      · exact completes_of_respond (.put range (by simpa using hrw) (by omega)) h

/-- The bytes of a successful read are as many as were asked for. -/
theorem memRead_ok_length {buf l : List Byte} {a n : Nat} {f : Field} {d : List ErrRec}
    (h : memRead buf a n f = .ok l d) : l.length = n := by
  unfold memRead at h
  split at h
  · cases h
  · split at h
    · cases h
    · next hstop =>
      cases h
      exact slice_length buf a n (Nat.not_lt.mp hstop)

theorem execEpdInsert_completes {s t : State} (h : execEpdInsert s = .next t) : Completes .epdInsert s t := by
  unfold execEpdInsert at h
  split at h
  · exact completes_of_respond (.answer _) h
  · next k d hentry => exact completes_of_respond (.insert (memRead_ok_length hentry)) h

theorem execDisRun_completes {m : Mode} {s t : State} (h : execDisRun m s = .next t) : Completes (.disRun m) s t := by
  unfold execDisRun at h
  split at h
  · next hloop => exact completes_of_respond (.run (runLoop_effects hloop)) h
  · cases h

/-- Every way an instruction can change the state. The instructions not named here only answer. -/
theorem exec_effect {i : Instr} {s t : State} (h : exec i s = .next t) : Completes i s t := by
  cases i with
  | bufLoad image name => exact execBufLoad_completes h
  | bufPutr range data => exact execBufPutr_completes h
  | epdClear => exact completes_of_respond .clear h
  | epdInsert => exact execEpdInsert_completes h
  | disStart m => exact completes_of_respond (.start m) h
  | disRun m => exact execDisRun_completes h
  | disStep => exact completes_of_respond (.step rfl (disStep_effect s)) h
  | nop =>
    exact completes_of_respond (.step rfl <| onRunning_effect fun hrun hin =>
      standardAt_effect hrun hin fun _ _ _ => rfl) h
  | jpA16 target =>
    refine completes_of_respond (.step rfl <| onRunning_effect fun hrun hin => standardAt_effect hrun hin ?_) h
    intro ent hent h0
    cases hent
    cases h0
  | prefixCb o l hb =>
    refine completes_of_respond (.step rfl <| onRunning_effect fun hrun _ => ?_) h
    cases hbyte : memByte s.buf (s.i + 1) .prefixedOpcode with
    | err e => exact .fail _
    | ok op d =>
      refine prefixedAt_effect hrun (Nat.lt_of_not_le fun hlen => ?_)
      rw [memByte_err s.buf _ _ (by simpa using hlen)] at hbyte
      cases hbyte
  | unknown x =>
    exact completes_of_respond (.step rfl <| onRunning_effect fun hrun hin => missOpcode_effect _ _ _ hrun hin) h
  | _ => exact completes_of_respond (.answer _) h

/-- Every way a step of the block can end: it idles, serves a request, or refuses an undefined code (R63, R99, R298). -/
theorem step_cases {s t : State} (h : step s = .next t) :
    t = s ∨ (∃ i rest, exec i { s with inbox := rest } = .next t) ∨
      ∃ rest r, t = State.answer { s with inbox := rest } r := by
  unfold step fetch at h
  cases hbox : s.inbox with
  | nil =>
    rw [hbox] at h
    cases h
    exact .inl rfl
  | cons frame rest =>
    rw [hbox] at h
    dsimp only at h
    cases hframe : decodeFrame frame with
    | ok i =>
      rw [hframe] at h
      exact .inr (.inl ⟨i, rest, h⟩)
    | error e =>
      rw [hframe] at h
      cases e with
      | undefinedOp op =>
        cases h
        exact .inr (.inr ⟨rest, _, rfl⟩)
      | _ => cases h

/-! ## The invariant -/

/-- A record that starts where the tiling ends extends it by its length (R233). -/
theorem tiles_snoc {a e : Nat} {l : List InstrPos} (h : tiles a l e = true) (r : InstrRec) :
    tiles a (l ++ [{ offset := e, instr := r }]) (e + r.length) = true := by
  induction l generalizing a with
  | nil =>
    simp only [tiles, beq_iff_eq] at h
    simp [tiles, h]
  | cons x l ih =>
    simp only [tiles, List.cons_append, Bool.and_eq_true] at h ⊢
    exact ⟨h.1, ih h.2⟩

/-- A running state that emits a record of the right shape inside the buffer, and the warnings `w` that go with it,
keeps the invariant. -/
theorem emit_inv {s : State} {r : InstrRec} {w : List ErrRec} (hs : s.Inv) (hrun : s.status = .running)
    (hok : recordOk r = true) (hfit : s.i + r.length ≤ s.len) (hw : w.length = r.unknown.toNat)
    (hmode : s.mode = .strict → w = []) (hkind : ∀ e ∈ w, e.kind = .unknownOpcode) :
    State.Inv { emit r s with dwarn := s.dwarn ++ w } := by
  obtain ⟨hmem, ⟨-, herr, -, -, hstrict, hcount, hkinds⟩, htiles, hrecs, hkeys⟩ := hs
  refine ⟨hmem, ⟨hfit, herr, ?_, ?_, ?_, ?_, ?_⟩, tiles_snoc htiles r, ?_, hkeys⟩
  · simp [hrun]
  · simp [hrun]
  · intro hm
    simp [hstrict hm, hmode hm]
  · cases hr : r.unknown <;> simp [hcount, hw, hr]
  · simpa [or_imp, forall_and] using ⟨hkinds, hkind⟩
  · simpa [or_imp, forall_and] using ⟨hrecs, hok⟩

theorem StepEffect.inv {s u : State} (h : StepEffect s u) (hs : s.Inv) : u.Inv := by
  obtain ⟨hmem, ⟨hi, herr, -, -, hrest⟩, htiles, hrecs, hkeys⟩ := id hs
  cases h with
  | refuse => exact hs
  | finish hrun hend =>
    exact ⟨hmem, ⟨hi, by simpa [hrun] using herr, fun _ => hend, nofun, hrest⟩, htiles, hrecs, hkeys⟩
  | fail e => exact ⟨hmem, ⟨hi, by simp, nofun, nofun, hrest⟩, htiles, hrecs, hkeys⟩
  | emit r hrun hok hknown hfit =>
    have h := emit_inv hs hrun hok (hfit hi) (w := []) (by simp [hknown]) (by simp) (by simp)
    rwa [List.append_nil] at h
  | substitute b e hrun hmode hkind hfit =>
    exact emit_inv hs hrun (sentinel_ok _ b) (hfit hi) rfl (by simp [hmode]) (by simp [hkind])

theorem startRun_inv (m : Mode) {s : State} (hs : s.Inv) : (startRun m s).Inv := by
  obtain ⟨hmem, -, -, -, hkeys⟩ := hs
  exact ⟨hmem, by simp [runOk], rfl, by simp, hkeys⟩

theorem insertKey_keysOk {k : List Byte} {l : List (List Byte)} (hk : k.length = 4) (hl : keysOk l) :
    keysOk (insertKey k l) := by
  obtain ⟨hsorted, hlen⟩ := hl
  refine ⟨insertKey_pairwise k l hsorted, fun x hx => ?_⟩
  rcases (mem_insertKey k x l).mp hx with rfl | hx
  · exact hk
  · exact hlen x hx

theorem Effect.inv {i : Instr} {s u : State} (h : Effect s i u) (hs : s.Inv) : u.Inv := by
  obtain ⟨hmem, hrun, htiles, hrecs, hkeys⟩ := id hs
  cases h with
  | answer => exact hs
  | load name hlen => exact ⟨ofImage_wf _ hlen, by simp [runOk], rfl, by simp, hkeys⟩
  | put range hrw hfit =>
    refine ⟨write_wf _ _ _ hfit hmem, ?_, htiles, hrecs, hkeys⟩
    simpa only [runOk, State.len, write_length _ _ _ hfit] using hrun
  | clear => exact ⟨hmem, hrun, htiles, hrecs, .nil, by simp⟩
  | insert hk => exact ⟨hmem, hrun, htiles, hrecs, insertKey_keysOk hk hkeys⟩
  | start m => exact startRun_inv m hs
  | @run m _ h =>
    induction h with
    | refl => exact startRun_inv m hs
    | tail _ hstep ih => exact hstep.inv ih
  | step _ h => exact h.inv hs

/-- An operation keeps the invariant: its effect does, and the response is no part of it. -/
theorem exec_inv {i : Instr} {s t : State} (hs : s.Inv) (h : exec i s = .next t) : t.Inv := by
  obtain ⟨u, r, hu, rfl⟩ := exec_effect h
  exact hu.inv hs

/-- Settles O9: neither the queue nor the response is part of the invariant, and the request served keeps it. -/
theorem stepKeepsTheInvariant : Obligations.StepKeepsTheInvariant := by
  unfold Obligations.StepKeepsTheInvariant
  intro s t hs h
  rcases step_cases h with rfl | ⟨i, rest, h⟩ | ⟨rest, r, rfl⟩
  · exact hs
  · exact exec_inv (s := { s with inbox := rest }) hs h
  · exact hs

/-! ## What an operation leaves alone -/

/-- What the steps of a run leave alone: the buffer, the parameters, `NAME`, `MODE`, `SET` and the queue; `OUT` and
`DWARN` are only appended to (R25, R33). -/
structure StepFrame (s u : State) : Prop where
  par : u.par = s.par
  mem : u.mem = s.mem
  name : u.name = s.name
  mode : u.mode = s.mode
  keys : u.keys = s.keys
  inbox : u.inbox = s.inbox
  out : s.out <+: u.out
  dwarn : s.dwarn <+: u.dwarn

theorem StepFrame.trans {s u v : State} (h : StepFrame s u) (h' : StepFrame u v) : StepFrame s v :=
  ⟨h'.par.trans h.par, h'.mem.trans h.mem, h'.name.trans h.name, h'.mode.trans h.mode, h'.keys.trans h.keys,
    h'.inbox.trans h.inbox, h.out.trans h'.out, h.dwarn.trans h'.dwarn⟩

theorem StepEffect.frame {s u : State} (h : StepEffect s u) : StepFrame s u := by
  cases h with
  | emit => exact ⟨rfl, rfl, rfl, rfl, rfl, rfl, List.prefix_append _ _, List.prefix_rfl⟩
  | substitute => exact ⟨rfl, rfl, rfl, rfl, rfl, rfl, List.prefix_append _ _, List.prefix_append _ _⟩
  | _ => exact ⟨rfl, rfl, rfl, rfl, rfl, rfl, List.prefix_rfl, List.prefix_rfl⟩

/-- The steps of a whole run leave alone what one step does. -/
theorem stepEffects_frame {s u : State} (h : Relation.ReflTransGen StepEffect s u) : StepFrame s u := by
  induction h with
  | refl => exact StepEffect.refuse.frame
  | tail _ hstep ih => exact ih.trans hstep.frame

theorem Effect.par_inbox {i : Instr} {s u : State} (h : Effect s i u) : u.par = s.par ∧ u.inbox = s.inbox := by
  cases h with
  | run h => exact ⟨(stepEffects_frame h).par, (stepEffects_frame h).inbox⟩
  | step _ h => exact ⟨h.frame.par, h.frame.inbox⟩
  | _ => exact ⟨rfl, rfl⟩

/-- Only `BUF.LOAD` and `BUF.PUTR` write the buffer, and the second only where `BUF_RW` is true (R23, R59). -/
theorem Effect.mem {i : Instr} {s u : State} (h : Effect s i u) :
    u.mem = s.mem ∨ (∃ image name, i = .bufLoad image name) ∨
      (∃ range data, i = .bufPutr range data) ∧ s.par.bufRw = true := by
  cases h with
  | load name => exact .inr (.inl ⟨_, name, rfl⟩)
  | put range hrw => exact .inr (.inr ⟨⟨range, _, rfl⟩, hrw⟩)
  | run h => exact .inl (stepEffects_frame h).mem
  | step _ h => exact .inl h.frame.mem
  | _ => exact .inl rfl

/-- Only `BUF.LOAD` writes `LEN` and `NAME` (R22, R23). -/
theorem Effect.len_name {i : Instr} {s u : State} (h : Effect s i u) (hi : ∀ image name, i ≠ .bufLoad image name) :
    u.len = s.len ∧ u.name = s.name := by
  cases h with
  | load name => exact absurd rfl (hi _ name)
  | put range hrw hfit => exact ⟨write_length _ _ _ hfit, rfl⟩
  | run h => exact ⟨congrArg List.length (stepEffects_frame h).mem, (stepEffects_frame h).name⟩
  | step _ h => exact ⟨congrArg List.length h.frame.mem, h.frame.name⟩
  | _ => exact ⟨rfl, rfl⟩

/-- Only `DIS.START`, `DIS.RUN` and `BUF.LOAD` write `MODE`, the last only to strict (R30, log entry 11). -/
theorem Effect.mode {i : Instr} {s u : State} (h : Effect s i u) (hstart : ∀ m, i ≠ .disStart m)
    (hrun : ∀ m, i ≠ .disRun m) : u.mode = s.mode ∨ ∃ image name, i = .bufLoad image name ∧ u.mode = .strict := by
  cases h with
  | load name => exact .inr ⟨_, name, rfl, rfl⟩
  | start m => exact absurd rfl (hstart m)
  | run => exact absurd rfl (hrun _)
  | step _ h => exact .inl h.frame.mode
  | _ => exact .inl rfl

/-- Only `BUF.LOAD` and the disassembler write the state of the run (R25, R31 to R33). -/
theorem Effect.run_state {i : Instr} {s u : State} (h : Effect s i u) (hnew : startsAnew i = false)
    (hdis : disassembles i = false) :
    u.i = s.i ∧ u.status = s.status ∧ u.err = s.err ∧ u.out = s.out ∧ u.dwarn = s.dwarn := by
  cases h with
  | load | start | run => cases hnew
  | step hi => rw [hi] at hdis; cases hdis
  | _ => exact ⟨rfl, rfl, rfl, rfl, rfl⟩

/-- `OUT` and `DWARN` are appended to, or begun anew (R33). -/
theorem Effect.out_dwarn {i : Instr} {s u : State} (h : Effect s i u) (hnew : startsAnew i = false) :
    (∃ l, u.out = s.out ++ l) ∧ ∃ l, u.dwarn = s.dwarn ++ l := by
  have hframe : s.out <+: u.out ∧ s.dwarn <+: u.dwarn := by
    cases h with
    | load | start | run => cases hnew
    | step _ h => exact ⟨h.frame.out, h.frame.dwarn⟩
    | _ => exact ⟨List.prefix_rfl, List.prefix_rfl⟩
  obtain ⟨⟨l, hl⟩, ⟨w, hw⟩⟩ := hframe
  exact ⟨⟨l, hl.symm⟩, ⟨w, hw.symm⟩⟩

/-- Only `EPD.CLEAR` and `EPD.INSERT` write `SET` (R35). -/
theorem Effect.keys {i : Instr} {s u : State} (h : Effect s i u) (hclear : i ≠ .epdClear) (hinsert : i ≠ .epdInsert) :
    u.keys = s.keys := by
  cases h with
  | clear => exact absurd rfl hclear
  | insert => exact absurd rfl hinsert
  | run h => exact (stepEffects_frame h).keys
  | step _ h => exact h.frame.keys
  | _ => rfl

/-- An operation that is no writer of the buffer leaves the buffer and the parameters alone. -/
theorem exec_mem_par {i : Instr} {s t : State} (hi : writesBuffer i = false) (h : exec i s = .next t) :
    t.mem = s.mem ∧ t.par = s.par := by
  obtain ⟨u, r, hu, rfl⟩ := exec_effect h
  refine ⟨?_, hu.par_inbox.1⟩
  rcases hu.mem with hmem | ⟨_, _, rfl⟩ | ⟨⟨_, _, rfl⟩, -⟩
  · exact hmem
  · cases hi
  · cases hi

/-- Settles O55: each clause is a lemma about the effects of an operation. -/
theorem whoWritesWhat : Obligations.WhoWritesWhat := by
  unfold Obligations.WhoWritesWhat
  intro i s t h
  refine ⟨fun hi => (exec_mem_par hi h).1, ?_⟩
  obtain ⟨u, r, hu, rfl⟩ := exec_effect h
  refine ⟨fun hrw hload => ?_, hu.len_name, hu.mode, hu.run_state, hu.out_dwarn, hu.keys⟩
  rcases hu.mem with hmem | ⟨image, name, hi⟩ | ⟨-, hrw'⟩
  · exact hmem
  · exact absurd hi (hload image name)
  · rw [hrw] at hrw'
    cases hrw'

/-- Settles O56: no effect of an operation writes a parameter or the queue, and a step takes at most a frame from it. -/
theorem parametersNeverChange : Obligations.ParametersNeverChange := by
  unfold Obligations.ParametersNeverChange
  have hexec : ∀ (i : Instr) (s t : State), exec i s = .next t → t.par = s.par ∧ t.inbox = s.inbox := by
    intro i s t h
    obtain ⟨u, r, hu, rfl⟩ := exec_effect h
    exact hu.par_inbox
  refine ⟨hexec, fun s t h => ?_⟩
  rcases step_cases h with rfl | ⟨i, rest, h⟩ | ⟨rest, r, rfl⟩
  · rfl
  · exact (hexec i _ t h).1
  · rfl

/-! ## The operations that only read -/

/-- Settles O35: a reader's meaning names no item of state but the buffer and the parameters, so for each of them one
response fits both states. -/
theorem readersDependOnTheBufferOnly : Obligations.ReadersDependOnTheBufferOnly := by
  unfold Obligations.ReadersDependOnTheBufferOnly
  intro i s t hi hmem hpar
  obtain ⟨par, mem⟩ := s
  obtain ⟨par', mem'⟩ := t
  obtain rfl : mem = mem' := hmem
  obtain rfl : par = par' := hpar
  cases i with
  | bufLoad | bufPutr | disStart | disStep | disRun | epdClear | epdInsert | epdSorted | nop | jpA16 | prefixCb
  | unknown => cases hi
  | _ => exact ⟨_, rfl, rfl⟩

/-- An instruction has one response in a state. -/
theorem replies_unique {i : Instr} {s : State} {r r' : Response} (h : Replies i s r) (h' : Replies i s r') :
    r = r' := by
  have hnext := h.symm.trans h'
  injection hnext with hstate
  injection hstate with _ _ _ _ _ _ _ _ _ _ _ hresp
  exact Option.some.inj hresp

/-- Operations other than the two writers of the buffer leave the buffer and the parameters alone, in any number. -/
theorem runs_mem_par {l : List Instr} {s t : State} (hl : ∀ j ∈ l, writesBuffer j = false) (h : Runs l s t) :
    t.mem = s.mem ∧ t.par = s.par := by
  induction l generalizing s with
  | nil =>
    cases h
    exact ⟨rfl, rfl⟩
  | cons j l ih =>
    obtain ⟨u, hj, hu⟩ := h
    obtain ⟨hmem, hpar⟩ := exec_mem_par (hl j List.mem_cons_self) hj
    obtain ⟨hmem', hpar'⟩ := ih (fun k hk => hl k (List.mem_cons_of_mem j hk)) hu
    exact ⟨hmem'.trans hmem, hpar'.trans hpar⟩

/-- Settles O36: the operations between leave the buffer and the parameters alone, and the response depends on no
more. -/
theorem responsesAreRepeatable : Obligations.ResponsesAreRepeatable := by
  unfold Obligations.ResponsesAreRepeatable
  intro i l s t r hi hl hrun hs
  obtain ⟨hmem, hpar⟩ := runs_mem_par hl hrun
  obtain ⟨r', hs', ht⟩ := readersDependOnTheBufferOnly i s t hi hmem.symm hpar.symm
  rwa [replies_unique hs hs']

/-! ## The status registers -/

/-- Every record of the right shape has a length of at least 1, so no more records than bytes fit below the end. -/
theorem length_le_of_tiles {a e : Nat} {l : List InstrPos} (h : tiles a l e = true)
    (hl : ∀ r ∈ l, recordOk r.instr = true) : a + l.length ≤ e := by
  induction l generalizing a with
  | nil => simpa [tiles] using (beq_iff_eq.mp h).le
  | cons x l ih =>
    simp only [tiles, Bool.and_eq_true] at h
    have hx := hl x List.mem_cons_self
    have hrest := ih h.2 fun r hr => hl r (List.mem_cons_of_mem x hr)
    simp only [recordOk, Bool.and_eq_true, beq_iff_eq] at hx
    simp only [List.length_cons]
    omega

/-- SR2 holds the code of `MODE` in bit 0 and that of `STATUS` above it (R29). -/
theorem sr2_fields (s : State) :
    s.sr2.getLsbD 0 = (modeCode s.mode).getLsbD 0 ∧ s.sr2.extractLsb' 1 2 = statusCode s.status := by
  unfold State.sr2
  cases s.mode <;> cases s.status <;> decide

/-- Settles O59: `LEN`, `I` and the number of records are at most 65536, so 17 bits hold them. -/
theorem statusRegistersRead : Obligations.StatusRegistersRead := by
  unfold Obligations.StatusRegistersRead
  intro s hs
  obtain ⟨⟨-, hlen⟩, ⟨hi, -⟩, htiles, hrecs, -⟩ := hs
  have hout := length_le_of_tiles htiles hrecs
  change s.len ≤ 65536 at hlen
  obtain ⟨hmode, hstatus⟩ := sr2_fields s
  have fits : ∀ n, n ≤ 65536 → (BitVec.ofNat 17 n).toNat = n := fun n hn => by
    rw [BitVec.toNat_ofNat, Nat.mod_eq_of_lt (by omega)]
  rw [hmode, hstatus]
  refine ⟨fits _ hlen, fits _ (by omega), ?_, ?_, ?_, ?_, ?_, rfl, fits _ (by omega), rfl⟩
  · cases s.mode <;> decide
  all_goals cases s.status <;> decide

end Sys2Proof.Proofs

/-! PROOF. The memory family: a range read back after a successful write of it (R123, R124), and the request that a
step serves (R60, R63, R298). -/

namespace Sys2Proof.Proofs

open Sys2Proof.Machine Sys2Proof.Spec

/-! ## The bytes of a written range -/

/-- The bytes after a write: those before the range, the data, and those after it. -/
theorem write_bytes (m : Memory) (a : Nat) (data : List Byte) :
    (m.write a data).map Prod.snd =
      (m.map Prod.snd).take a ++ (data ++ (m.map Prod.snd).drop (a + data.length)) := by
  simp [Memory.write]

theorem slice_write (m : Memory) (a : Nat) (data : List Byte) (h : a + data.length ≤ m.length) :
    slice ((m.write a data).map Prod.snd) a data.length = data := by
  have hbefore : ((m.map Prod.snd).take a).length = a := by simp; omega
  rw [slice, write_bytes, List.drop_left' hbefore, List.take_left]

/-! ## `BUF.PUTR` that succeeds, and `BUF.GETR` of a range inside the buffer -/

/-- The response in the next state is the one `respond` was given. -/
theorem respond_resp {r r' : Response} {s t : State} (h : respond r s = .next t) (hr : t.resp = some r') :
    r = r' ∧ t = s.answer r' := by
  cases h
  cases hr
  exact ⟨rfl, rfl⟩

/-- A `BUF.PUTR` that answers Ok has passed the range check with data of the range's length, and has written the data at
the start of the range (R124). -/
theorem execBufPutr_ok {range : RangeArg} {data : List Byte} {s t : State}
    (h : execBufPutr range data s = .next t) (hok : t.resp = some (.ok .unit [])) :
    ∃ a e d, checkRange s.len range = .ok (a, e) d ∧ data.length = e - a ∧
      t = { s with mem := s.mem.write a data, resp := some (.ok .unit []) } := by
  unfold execBufPutr at h
  split at h
  · nomatch (respond_resp h hok).1
  · split at h
    · nomatch (respond_resp h hok).1
    · next a e d hrange =>
      split at h
      · nomatch (respond_resp h hok).1
      · next hlen => exact ⟨a, e, d, hrange, not_not.mp hlen, (respond_resp h hok).2⟩

/-- The range check gives no warnings. -/
theorem checkRange_diags {len : Nat} {r : RangeArg} {v : Nat × Nat} {d : List ErrRec}
    (h : checkRange len r = .ok v d) : d = [] := by
  rcases checkRange_cases len r with ⟨-, hc⟩ | ⟨-, -, hc⟩ | ⟨-, -, -, hc⟩ | ⟨-, -, -, hc⟩ <;> rw [hc] at h <;> cases h
  rfl

/-- `BUF.GETR` of a range that passes the check answers its bytes (R123). -/
theorem bufGetr_replies {range : RangeArg} {s : State} {a e : Nat} {d : List ErrRec}
    (h : checkRange s.len range = .ok (a, e) d) :
    Replies (.bufGetr range) s (.ok (.bytes (slice s.buf a (e - a))) []) := by
  obtain rfl := checkRange_diags h
  have hread : readRange s.buf range = .ok (slice s.buf a (e - a)) [] := by
    rw [readRange, buf_length, h, bind_ok]
  change respond ((readRange s.buf range).map Value.bytes) s = _
  rw [hread]
  rfl

/-- Settles O15: the write keeps `LEN`, so the range resolves as before and the read takes the data from between the
bytes that the write left alone. -/
theorem writesAreSeenByReads : Obligations.WritesAreSeenByReads := by
  unfold Obligations.WritesAreSeenByReads
  intro r data s t h hok
  obtain ⟨a, e, d, hrange, hdata, rfl⟩ := execBufPutr_ok h hok
  obtain ⟨hle, hlen⟩ := checkRange_ok hrange
  have hfit : a + data.length ≤ s.mem.length := by
    change e ≤ s.mem.length at hlen
    omega
  have hkeep : State.len { s with mem := s.mem.write a data, resp := some (.ok .unit []) } = s.len :=
    write_length s.mem a data hfit
  have hreply := bufGetr_replies (hkeep.symm ▸ hrange)
  rwa [State.buf, ← hdata, slice_write s.mem a data hfit] at hreply

/-! ## The request that a step serves -/

theorem fetch_of_inbox_nil {s : State} (h : s.inbox = []) : fetch s = .idle := by
  rw [fetch, h]

theorem fetch_of_decodeFrame {s : State} {frame : List Byte} {rest : List (List Byte)} {i : Instr}
    (h : s.inbox = frame :: rest) (hi : decodeFrame frame = .ok i) :
    fetch s = .request i { s with inbox := rest } := by
  simp only [fetch, h, hi]

/-- Settles O4: the step does what `fetch` finds, nothing or the decoded request. -/
theorem stepServesTheOldestRequest : Obligations.StepServesTheOldestRequest := by
  unfold Obligations.StepServesTheOldestRequest
  refine ⟨fun s h => ?_, fun s frame rest i h hi => ?_⟩
  · rw [step, fetch_of_inbox_nil h]
  · rw [step, fetch_of_decodeFrame h hi]

end Sys2Proof.Proofs

/-! PROOF. Request frames: what each argument reader reads, the round trip of the request decoder (R82, R83), and the
codes outside the table (R99). -/

namespace Sys2Proof.Proofs

open Sys2Proof.Machine Sys2Proof.Spec

/-! ## Bytes of words and lengths -/

theorem leBytes_append (hi lo : Byte) : leBytes (hi ++ lo) = [lo, hi] := by
  have hlow : lowByte (hi ++ lo) = lo := BitVec.extractLsb'_append_eq_right
  have hhigh : highByte (hi ++ lo) = hi := BitVec.extractLsb'_append_eq_left
  rw [leBytes, hlow, hhigh]

theorem highByte_append_lowByte (v : Half) : highByte v ++ lowByte v = v := BitVec.extractLsb'_append_extractLsb'

/-- The number that four length bytes spell, low byte first (log entry 4). -/
def lengthOf (a b c d : Byte) : Nat := a.toNat + 256 * (b.toNat + 256 * (c.toNat + 256 * d.toNat))

theorem lengthOf_lt (a b c d : Byte) : lengthOf a b c d < 4294967296 := by
  unfold lengthOf
  omega

theorem lengthBytes_lengthOf (a b c d : Byte) : lengthBytes (lengthOf a b c d) = [a, b, c, d] := by
  simp only [lengthBytes, lengthOf, List.cons.injEq, and_true]
  refine ⟨?_, ?_, ?_, ?_⟩ <;> apply BitVec.eq_of_toNat_eq <;> rw [BitVec.toNat_ofNat] <;> omega

theorem lengthOf_lengthBytes {n : Nat} (h : n < 4294967296) :
    lengthOf (BitVec.ofNat 8 n) (BitVec.ofNat 8 (n / 256)) (BitVec.ofNat 8 (n / 65536)) (BitVec.ofNat 8 (n / 16777216))
      = n := by
  simp only [lengthOf, BitVec.toNat_ofNat]
  omega

/-! ## Readers of arguments -/

/-- `take` reads from the front of the bytes exactly the encodings `put a` of the values `a` that fit. -/
def Reads {α : Type} (take : List Byte → Except DecodeError (α × List Byte)) (fits : α → Prop)
    (put : α → List Byte) : Prop :=
  ∀ bs a rest, take bs = .ok (a, rest) ↔ fits a ∧ bs = put a ++ rest

section
variable {α β γ : Type} {take : List Byte → Except DecodeError (α × List Byte)} {fits : α → Prop}
  {put : α → List Byte} {take' : List Byte → Except DecodeError (β × List Byte)} {fits' : β → Prop}
  {put' : β → List Byte}

/-- Reading one argument and building a value of it. -/
theorem Reads.one (h : Reads take fits put) (f : α → γ) (bs rest : List Byte) (c : γ) :
    (do let (a, bs) ← take bs; return (f a, bs)) = Except.ok (c, rest) ↔
      ∃ a, fits a ∧ f a = c ∧ bs = put a ++ rest := by
  cases hread : take bs with
  | error e =>
    refine ⟨nofun, fun ⟨a, ha, _, hbs⟩ => ?_⟩
    rw [(h bs a rest).mpr ⟨ha, hbs⟩] at hread
    cases hread
  | ok r =>
    obtain ⟨a, bs'⟩ := r
    constructor
    · intro hok
      cases hok
      obtain ⟨ha, hbs⟩ := (h bs a rest).mp hread
      exact ⟨a, ha, rfl, hbs⟩
    · rintro ⟨a', ha', rfl, hbs⟩
      rw [(h bs a' rest).mpr ⟨ha', hbs⟩] at hread
      cases hread
      rfl

/-- Reading two arguments, one after the other, and building a value of them. -/
theorem Reads.two (h : Reads take fits put) (h' : Reads take' fits' put') (f : α → β → γ) (bs rest : List Byte)
    (c : γ) :
    (do let (a, bs) ← take bs; let (b, bs) ← take' bs; return (f a b, bs)) = Except.ok (c, rest) ↔
      ∃ a b, (fits a ∧ fits' b) ∧ f a b = c ∧ bs = put a ++ put' b ++ rest := by
  cases hread : take bs with
  | error e =>
    refine ⟨nofun, fun ⟨a, b, ⟨ha, _⟩, _, hbs⟩ => ?_⟩
    rw [(h bs a (put' b ++ rest)).mpr ⟨ha, by rw [hbs, List.append_assoc]⟩] at hread
    cases hread
  | ok r =>
    obtain ⟨a, bs'⟩ := r
    refine (h'.one (f a) bs' rest c).trans ⟨?_, ?_⟩
    · rintro ⟨b, hb, hc, rfl⟩
      obtain ⟨ha, hbs⟩ := (h bs a _).mp hread
      exact ⟨a, b, ⟨ha, hb⟩, hc, by rw [hbs, List.append_assoc]⟩
    · rintro ⟨a', b, ⟨ha, hb⟩, hc, hbs⟩
      rw [(h bs a' (put' b ++ rest)).mpr ⟨ha, by rw [hbs, List.append_assoc]⟩] at hread
      cases hread
      exact ⟨b, hb, hc, rfl⟩

end

theorem takeHalf_reads : Reads takeHalf (fun _ => True) leBytes := by
  intro bs v rest
  rw [true_and]
  constructor
  · intro h
    unfold takeHalf at h
    split at h
    · cases h
      rw [leBytes_append]
      rfl
    · cases h
  · rintro rfl
    change Except.ok (highByte v ++ lowByte v, rest) = _
    rw [highByte_append_lowByte]

theorem takeBlock_cons (a b c d : Byte) (bs : List Byte) :
    takeBlock (a :: b :: c :: d :: bs) =
      if lengthOf a b c d ≤ bs.length then .ok (bs.take (lengthOf a b c d), bs.drop (lengthOf a b c d))
      else .error .truncated := rfl

theorem takeBlock_reads : Reads takeBlock (fun l => fitsFrame l = true) blockBytes := by
  intro bs l rest
  constructor
  · intro h
    match bs with
    | a :: b :: c :: d :: bs' =>
      rw [takeBlock_cons] at h
      split at h
      · next hle =>
        cases h
        have hlen : (bs'.take (lengthOf a b c d)).length = lengthOf a b c d := List.length_take_of_le hle
        refine ⟨?_, ?_⟩
        · simpa [fitsFrame, hlen] using lengthOf_lt a b c d
        · rw [blockBytes, hlen, lengthBytes_lengthOf, List.append_assoc, List.take_append_drop]
          rfl
      · cases h
    | [] | [_] | [_, _] | [_, _, _] => cases h
  · rintro ⟨hfit, rfl⟩
    have hlen := lengthOf_lengthBytes (n := l.length) (by simpa [fitsFrame] using hfit)
    refine (takeBlock_cons _ _ _ _ (l ++ rest)).trans ?_
    rw [hlen, if_pos (by simp), List.take_left, List.drop_left]

/-- The bytes of a start bound (R83). -/
def startBytes : StartBound → List Byte
  | .unbounded => [0]
  | .fromIdx s => 1 :: leBytes s

/-- The bytes of an end bound (R83). -/
def endBytes : EndBound → List Byte
  | .unbounded => [0]
  | .toExcl e => 1 :: leBytes e
  | .toIncl e => 2 :: leBytes e

theorem takeStart_reads : Reads takeStart (fun _ => True) startBytes := by
  intro bs b rest
  rw [true_and]
  constructor
  · intro h
    unfold takeStart at h
    split at h
    · cases h
    · next tag bs' =>
      split at h
      · next htag =>
        cases h
        rw [htag]
        rfl
      · split at h
        · next htag =>
          obtain ⟨v, -, rfl, rfl⟩ := (takeHalf_reads.one StartBound.fromIdx bs' rest b).mp h
          rw [htag]
          rfl
        · cases h
  · rintro rfl
    cases b with
    | unbounded => rfl
    | fromIdx v => exact (takeHalf_reads.one StartBound.fromIdx _ _ _).mpr ⟨v, trivial, rfl, rfl⟩

theorem takeEnd_reads : Reads takeEnd (fun _ => True) endBytes := by
  intro bs b rest
  rw [true_and]
  constructor
  · intro h
    unfold takeEnd at h
    split at h
    · cases h
    · next tag bs' =>
      split at h
      · next htag =>
        cases h
        rw [htag]
        rfl
      · split at h
        · next htag =>
          obtain ⟨v, -, rfl, rfl⟩ := (takeHalf_reads.one EndBound.toExcl bs' rest b).mp h
          rw [htag]
          rfl
        · split at h
          · next htag =>
            obtain ⟨v, -, rfl, rfl⟩ := (takeHalf_reads.one EndBound.toIncl bs' rest b).mp h
            rw [htag]
            rfl
          · cases h
  · rintro rfl
    cases b with
    | unbounded => rfl
    | toExcl v => exact (takeHalf_reads.one EndBound.toExcl _ _ _).mpr ⟨v, trivial, rfl, rfl⟩
    | toIncl v => exact (takeHalf_reads.one EndBound.toIncl _ _ _).mpr ⟨v, trivial, rfl, rfl⟩

theorem rangeBytes_eq (r : RangeArg) : rangeBytes r = startBytes r.start ++ endBytes r.stop := by
  obtain ⟨start, stop⟩ := r
  cases start <;> cases stop <;> rfl

theorem takeRange_reads : Reads takeRange (fun _ => True) rangeBytes := by
  intro bs r rest
  refine (takeStart_reads.two takeEnd_reads RangeArg.mk bs rest r).trans ⟨?_, ?_⟩
  · rintro ⟨s, e, -, rfl, rfl⟩
    exact ⟨trivial, by rw [rangeBytes_eq]⟩
  · rintro ⟨-, rfl⟩
    exact ⟨r.start, r.stop, ⟨trivial, trivial⟩, rfl, by rw [rangeBytes_eq]⟩

theorem takeMode_reads : Reads takeMode (fun _ => True) fun m => [modeByte m] := by
  intro bs m rest
  rw [true_and]
  constructor
  · intro h
    unfold takeMode at h
    split at h
    · cases h
    · split at h
      · next hb =>
        cases h
        rw [hb]
        rfl
      · split at h
        · next hb =>
          cases h
          rw [hb]
          rfl
        · cases h
  · rintro rfl
    cases m with
    | strict => rfl
    | permissive => rfl

/-! ## Request frames -/

/-- The encoding of a well-formed request is read back, whatever follows it. -/
theorem decodeRequest_encode {p : Params} {i : Instr} (rest : List Byte) (hi : i.isRequest = true)
    (hwf : i.wf p = true) : decodeRequest (encode p i ++ rest) = .ok (i, rest) := by
  cases i with
  | bufLoad image name =>
    exact (takeBlock_reads.two takeBlock_reads Instr.bufLoad _ _ _).mpr
      ⟨image, name, by simpa [Instr.wf] using hwf, rfl, rfl⟩
  | bufGetb index => exact (takeHalf_reads.one Instr.bufGetb _ _ _).mpr ⟨index, trivial, rfl, rfl⟩
  | bufGetr range => exact (takeRange_reads.one Instr.bufGetr _ _ _).mpr ⟨range, trivial, rfl, rfl⟩
  | bufPutr range data =>
    exact (takeRange_reads.two takeBlock_reads Instr.bufPutr _ _ _).mpr ⟨range, data, ⟨trivial, hwf⟩, rfl, rfl⟩
  | disStart m => exact (takeMode_reads.one Instr.disStart _ _ _).mpr ⟨m, trivial, rfl, rfl⟩
  | disRun m => exact (takeMode_reads.one Instr.disRun _ _ _).mpr ⟨m, trivial, rfl, rfl⟩
  | nop | jpA16 | prefixCb | unknown => cases hi
  | _ => rfl

theorem byte_eq_ofNat {b : Byte} {n : Nat} (h : b.toNat = n) : b = BitVec.ofNat 8 n := by
  rw [← h, BitVec.ofNat_toNat, BitVec.setWidth_eq]

/-- The decoder reads nothing but the encoding of a well-formed request: the six requests with arguments by the readers
of their arguments, the others as their operation code alone (R82). -/
theorem decodeOp_sound (p : Params) {op : Byte} {args rest : List Byte} {i : Instr}
    (h : decodeOp op args = .ok (i, rest)) :
    i.isRequest = true ∧ i.wf p = true ∧ op :: args = encode p i ++ rest := by
  unfold decodeOp at h
  split at h
  · next hop =>
    obtain ⟨image, name, ⟨himage, hname⟩, rfl, rfl⟩ :=
      (takeBlock_reads.two takeBlock_reads Instr.bufLoad args rest i).mp h
    exact ⟨rfl, by simp [Instr.wf, himage, hname], by rw [byte_eq_ofNat hop]; rfl⟩
  · next hop =>
    obtain ⟨index, -, rfl, rfl⟩ := (takeHalf_reads.one Instr.bufGetb args rest i).mp h
    exact ⟨rfl, rfl, by rw [byte_eq_ofNat hop]; rfl⟩
  · next hop =>
    obtain ⟨range, -, rfl, rfl⟩ := (takeRange_reads.one Instr.bufGetr args rest i).mp h
    exact ⟨rfl, rfl, by rw [byte_eq_ofNat hop]; rfl⟩
  · next hop =>
    obtain ⟨range, data, ⟨-, hdata⟩, rfl, rfl⟩ :=
      (takeRange_reads.two takeBlock_reads Instr.bufPutr args rest i).mp h
    exact ⟨rfl, hdata, by rw [byte_eq_ofNat hop]; rfl⟩
  case h_29 hop =>
    obtain ⟨m, -, rfl, rfl⟩ := (takeMode_reads.one Instr.disStart args rest i).mp h
    exact ⟨rfl, rfl, by rw [byte_eq_ofNat hop]; rfl⟩
  case h_31 hop =>
    obtain ⟨m, -, rfl, rfl⟩ := (takeMode_reads.one Instr.disRun args rest i).mp h
    exact ⟨rfl, rfl, by rw [byte_eq_ofNat hop]; rfl⟩
  case h_35 => cases h
  all_goals
    next hop =>
    cases h
    exact ⟨rfl, rfl, by rw [byte_eq_ofNat hop]; rfl⟩

/-- Settles O1: the decoder reads only what is the encoding of a request, and it reads every encoding back. -/
theorem requestsDecodeAndEncode : Obligations.RequestsDecodeAndEncode := by
  unfold Obligations.RequestsDecodeAndEncode
  intro p bs rest i
  constructor
  · intro h
    cases bs with
    | nil => cases h
    | cons op args => exact decodeOp_sound p h
  · rintro ⟨hi, hwf, rfl⟩
    exact decodeRequest_encode rest hi hwf

/-! ## Undefined operation codes (R99) -/

/-- A code outside the table of R82 is refused as undefined, whatever follows it. -/
theorem decodeOp_of_not_mem {op : Byte} (hop : op ∉ opCodes) (args : List Byte) :
    decodeOp op args = .error (.undefinedOp op) := by
  unfold decodeOp
  split
  case h_35 => rfl
  all_goals
    next hcode =>
    rw [byte_eq_ofNat hcode] at hop
    exact absurd (by decide) hop

theorem fetch_of_undefinedOp {s : State} {frame : List Byte} {rest : List (List Byte)} {op : Byte}
    (h : s.inbox = frame :: rest) (hop : decodeFrame frame = .error (.undefinedOp op)) :
    fetch s = .undefinedOp op { s with inbox := rest } := by
  simp only [fetch, h, hop]

/-- `BUF.PUTR` is refused when `BUF_RW` is false (R99, R124). -/
theorem bufPutr_not_writable {s : State} (range : RangeArg) (data : List Byte) (h : s.par.bufRw = false) :
    Replies (.bufPutr range data) s (.err { refusedErr .notWritable s.len with field := .rangeArgument }) :=
  if_pos h

/-- Settles O5: the decoder knows no code outside the table, and `BUF.PUTR` tests `BUF_RW` first. -/
theorem undefinedRequestsAreRefused : Obligations.UndefinedRequestsAreRefused := by
  unfold Obligations.UndefinedRequestsAreRefused
  refine ⟨fun s op args rest hop h => ?_, fun s r data h => ⟨_, bufPutr_not_writable r data h, rfl⟩⟩
  have hframe : decodeFrame (op :: args) = .error (.undefinedOp op) := by
    rw [decodeFrame, decodeRequest, decodeOp_of_not_mem hop]
  rw [step, fetch_of_undefinedOp h hframe]
  exact ⟨_, rfl, rfl, rfl⟩

end Sys2Proof.Proofs

/-! PROOF. The target stream: the round trip of its decoder under any opcode tables (R84 to R87), and the step that runs
the class decoded at `I` (R226 to R228). -/

namespace Sys2Proof.Proofs

open Sys2Proof.Machine Sys2Proof.Spec

/-! ## Target-stream bytes (R84 to R87) -/

/-- What is read after a prefixed opcode that declares `n` operand bytes (R86). -/
theorem decodeCb_ok_iff {o : Byte} {n : Nat} {bs rest : List Byte} {i : Instr} :
    decodeCb o n bs = .ok (i, rest) ↔
      ∃ l h, i = .prefixCb o l h ∧ cbOperandsFit n l h = true ∧ bs = [l, h].take n ++ rest := by
  constructor
  · intro h
    unfold decodeCb at h
    split at h <;> cases h
    · exact ⟨0, 0, rfl, rfl, rfl⟩
    · next l => exact ⟨l, 0, rfl, rfl, rfl⟩
    · next l h => exact ⟨l, h, rfl, by simp [cbOperandsFit], by simp⟩
  · rintro ⟨l, h, rfl, hfit, rfl⟩
    match n with
    | 0 =>
      obtain ⟨rfl, rfl⟩ : l = 0 ∧ h = 0 := by simpa [cbOperandsFit] using hfit
      rfl
    | 1 =>
      obtain rfl : h = 0 := by simpa [cbOperandsFit] using hfit
      rfl
    | n + 2 => simp [decodeCb]

/-- UNKNOWN is well-formed for the bytes without a standard entry, the escape byte apart (R87, R231). -/
theorem unknown_wf_iff {p : Params} {x : Byte} :
    (Instr.unknown x).wf p = true ↔ x ≠ 0xCB ∧ opromStd p x = none := by
  rw [Instr.wf, Bool.and_eq_true, bne_iff_ne, Option.isNone_iff_eq_none]

theorem decodeStd_sound {p : Params} {b : Byte} {bs rest : List Byte} {i : Instr} (hb : b ≠ 0xCB)
    (h : decodeStd p b bs = .ok (i, rest)) :
    i.isRequest = false ∧ i.wf p = true ∧ b :: bs = encode p i ++ rest := by
  unfold decodeStd at h
  split at h
  · next hnone =>
    cases h
    exact ⟨rfl, unknown_wf_iff.mpr ⟨hb, hnone⟩, rfl⟩
  · split at h
    · next hnop =>
      cases h
      exact ⟨rfl, rfl, by rw [hnop]; rfl⟩
    · split at h
      · next hjp =>
        obtain ⟨a, -, rfl, rfl⟩ := (takeHalf_reads.one Instr.jpA16 bs rest i).mp h
        exact ⟨rfl, rfl, by rw [hjp]; rfl⟩
      · cases h

/-- The decoder reads nothing but the encoding of a class that is well-formed under its tables. -/
theorem decodeTarget_sound {p : Params} {bs rest : List Byte} {i : Instr} (h : decodeTarget p bs = .ok (i, rest)) :
    i.isRequest = false ∧ i.wf p = true ∧ bs = encode p i ++ rest := by
  unfold decodeTarget at h
  split at h
  · cases h
  · next b bs =>
    split at h
    · next hcb =>
      split at h
      · cases h
      · next o bs =>
        obtain ⟨l, hb, rfl, hfit, rfl⟩ := decodeCb_ok_iff.mp h
        exact ⟨rfl, hfit, by rw [hcb]; rfl⟩
    · next hcb => exact decodeStd_sound hcb h

/-- The encoding of a well-formed class is read back under the same tables, whatever follows it. -/
theorem decodeTarget_encode {p : Params} {i : Instr} (rest : List Byte) (hi : i.isRequest = false)
    (hwf : i.wf p = true) : decodeTarget p (encode p i ++ rest) = .ok (i, rest) := by
  cases i with
  | nop => rfl
  | jpA16 a => exact (takeHalf_reads.one Instr.jpA16 _ _ _).mpr ⟨a, trivial, rfl, rfl⟩
  | prefixCb o l h => exact decodeCb_ok_iff.mpr ⟨l, h, rfl, hwf, rfl⟩
  | unknown x =>
    obtain ⟨hcb, hnone⟩ := unknown_wf_iff.mp hwf
    change (if x = 0xCB then _ else decodeStd p x rest) = _
    rw [if_neg hcb, decodeStd, hnone]
  | _ => cases hi

/-- Settles O2: the decoder reads only what is the encoding of a class, and it reads every encoding back. -/
theorem targetDecodeAndEncode : Obligations.TargetDecodeAndEncode := by
  unfold Obligations.TargetDecodeAndEncode
  intro p bs rest i
  refine ⟨decodeTarget_sound, ?_⟩
  rintro ⟨hi, hwf, rfl⟩
  exact decodeTarget_encode rest hi hwf

/-! ## `DIS.STEP` on decoded bytes (R87, R226 to R228) -/

theorem byte_of_drop {buf l : List Byte} {a : Nat} {b : Byte} (h : buf.drop a = b :: l) : buf[a]? = some b := by
  rw [← Nat.add_zero a, ← List.getElem?_drop, h]
  rfl

theorem drop_succ_of_drop {buf l : List Byte} {a : Nat} {b : Byte} (h : buf.drop a = b :: l) :
    buf.drop (a + 1) = l := by
  rw [← List.drop_drop, h]
  rfl

/-- Operand bytes that stand after the opcode byte at `pos` are read (R226). -/
theorem readOperand_of_drop {buf operand rest : List Byte} {pos : Nat} (h : buf.drop (pos + 1) = operand ++ rest) :
    readOperand buf pos operand.length = .ok operand [] := by
  unfold readOperand
  split
  · next hnone => rw [List.eq_nil_of_length_eq_zero hnone]
  · next hsome =>
    have hlen : buf.length - (pos + 1) = operand.length + rest.length := by
      rw [← List.length_drop, h, List.length_append]
    rw [memRead_ok _ _ _ _ (by omega) (by omega), slice, h, List.take_left]

/-- A hit emits the operand value of the bytes it reads (R226). -/
theorem hitOpcode_operand {pre : Bool} {op : Byte} {ent : OpEntry} {value : List Byte → Half} {s : State}
    {operand : List Byte} {d : List ErrRec}
    (h : readOperand s.buf (s.i + pre.toNat) (opBytes ent.nops) = .ok operand d) :
    hitOpcode pre op ent value s = hitOpcode pre op ent (fun _ => value operand) s := by
  simp only [hitOpcode, h]

theorem onRunning_congr {s : State} {act act' : State → State × Reply StepEnd} (h : act s = act' s) :
    onRunning s act = onRunning s act' := by
  simp only [onRunning, h]

theorem disStep_standard {s : State} {b : Byte} {l : List Byte} (hbytes : s.buf.drop s.i = b :: l) (hb : b ≠ 0xCB) :
    disStep s = onRunning s (stepStandard b) := by
  refine onRunning_congr ?_
  rw [memByte_ok _ _ _ _ (byte_of_drop hbytes)]
  exact if_neg hb

theorem disStep_prefixed {s : State} {l : List Byte} (hbytes : s.buf.drop s.i = 0xCB :: l) :
    disStep s = onRunning s stepPrefixed := by
  refine onRunning_congr ?_
  rw [memByte_ok _ _ _ _ (byte_of_drop hbytes)]
  exact if_pos rfl

/-- The step at a standard opcode that is followed by as many operand bytes as its entry declares (R227). -/
theorem disStep_standardAt {op : Byte} {operand rest : List Byte} {s : State}
    (hbytes : s.buf.drop s.i = op :: (operand ++ rest)) (hop : op ≠ 0xCB)
    (hcount : ∀ ent, opromStd s.par op = some ent → operand.length = opBytes ent.nops) :
    disStep s = onRunning s (standardAt op operand) := by
  rw [disStep_standard hbytes hop]
  refine onRunning_congr ?_
  unfold stepStandard standardAt
  cases hent : opromStd s.par op with
  | none => rfl
  | some ent =>
    refine hitOpcode_operand (d := []) ?_
    rw [← hcount ent hent]
    exact readOperand_of_drop (drop_succ_of_drop hbytes)

/-- The prefixed path at an opcode that is followed by as many operand bytes as its entry declares (R228). -/
theorem stepPrefixed_eq {o l h : Byte} {rest : List Byte} {s : State}
    (hbytes : s.buf.drop (s.i + 1) = o :: ([l, h].take (cbOperandCount s.par o) ++ rest)) :
    stepPrefixed s = prefixedAt o [l, h] s := by
  unfold stepPrefixed prefixedAt
  rw [memByte_ok _ _ _ _ (byte_of_drop hbytes)]
  dsimp only
  unfold cbOperandCount at hbytes
  cases hent : opromCb s.par o with
  | none => rfl
  | some ent =>
    rw [hent] at hbytes
    have hcount : ([l, h].take (opBytes ent.nops)).length = opBytes ent.nops :=
      List.length_take_of_le (opBytes_le ent.nops)
    have hread := readOperand_of_drop (drop_succ_of_drop hbytes)
    rw [hcount] at hread
    exact hitOpcode_operand hread

/-- Settles O6: the bytes at `I` are the encoding of the class, so the step reads the operand bytes that the class
carries. -/
theorem disStepRunsTheDecodedInstruction : Obligations.DisStepRunsTheDecodedInstruction := by
  unfold Obligations.DisStepRunsTheDecodedInstruction
  intro s i rest h
  obtain ⟨hi, hwf, hbytes⟩ := decodeTarget_sound h
  cases i with
  | nop =>
    refine congrArg respondStep (disStep_standardAt (operand := []) hbytes (by decide) fun ent hent => ?_)
    cases hent
    rfl
  | jpA16 target =>
    refine congrArg respondStep (disStep_standardAt hbytes (by decide) fun ent hent => ?_)
    cases hent
    rfl
  | prefixCb o l hb =>
    refine congrArg respondStep ((disStep_prefixed hbytes).trans (onRunning_congr ?_))
    have hafter := drop_succ_of_drop hbytes
    rw [memByte_ok _ _ _ _ (byte_of_drop hafter)]
    exact stepPrefixed_eq hafter
  | unknown x =>
    obtain ⟨hcb, hnone⟩ := unknown_wf_iff.mp hwf
    refine congrArg respondStep ((disStep_standard hbytes hcb).trans (onRunning_congr ?_))
    rw [stepStandard, hnone]
  | _ => cases hi

/-! ## Sample words -/

/-- Settles O3, by evaluating the decoders. -/
theorem sampleWordsDecode : Obligations.SampleWordsDecode := by
  unfold Obligations.SampleWordsDecode
  exact ⟨rfl, rfl, rfl, rfl, rfl, rfl, rfl, rfl, rfl, rfl, fun p => ⟨rfl, rfl⟩⟩

end Sys2Proof.Proofs

/-! PROOF. The ranges of `BUF.GETR` and `BUF.PUTR` (R83, R122 to R124). -/

namespace Sys2Proof.Proofs

open Sys2Proof.Machine Sys2Proof.Spec

/-! ## The range check (R83, R122) -/

/-- The resolution of R83 is that of the model's range check. -/
theorem resolves_iff {len a e : Nat} {r : RangeArg} :
    Resolves len r a e ↔ a = resolveStart r.start ∧ e = resolveEnd len r.stop := by
  obtain ⟨start, stop⟩ := r
  cases start <;> cases stop <;> rfl

section
variable {len : Nat} {r : RangeArg}

theorem checkRange_start (h : len ≤ resolveStart r.start) :
    checkRange len r = .err (boundsErr .start .rangeArgument (resolveStart r.start) len) := if_pos h

theorem checkRange_stop (h : resolveStart r.start < len) (h2 : len < resolveEnd len r.stop) :
    checkRange len r = .err (boundsErr .stop .rangeArgument (resolveEnd len r.stop) len) := by
  simp only [checkRange, if_neg (Nat.not_le.mpr h), if_pos h2]

theorem checkRange_inverted (h : resolveStart r.start < len) (h2 : resolveEnd len r.stop ≤ len)
    (h3 : resolveEnd len r.stop < resolveStart r.start) :
    checkRange len r = .err (boundsErr .inverted .rangeArgument (resolveEnd len r.stop) len) := by
  simp only [checkRange, if_neg (Nat.not_le.mpr h), if_neg (Nat.not_lt.mpr h2), if_pos h3]

theorem checkRange_inside (h : resolveStart r.start < len) (h2 : resolveStart r.start ≤ resolveEnd len r.stop)
    (h3 : resolveEnd len r.stop ≤ len) :
    checkRange len r = .ok (resolveStart r.start, resolveEnd len r.stop) [] := by
  simp only [checkRange, if_neg (Nat.not_le.mpr h), if_neg (Nat.not_lt.mpr h3), if_neg (Nat.not_lt.mpr h2)]

end

/-- An operation that answers the error of the range check answers the three range errors in their order (R122). -/
theorem rangeErrors_of_checkRange {i : Instr} {r : RangeArg} {s : State}
    (hi : ∀ x, checkRange s.len r = .err x → Replies i s (.err x)) :
    RangeErrors i (resolveStart r.start) (resolveEnd s.len r.stop) s :=
  ⟨fun h => ⟨_, hi _ (checkRange_start h), rfl, rfl, rfl, rfl⟩,
    fun h h2 => ⟨_, hi _ (checkRange_stop h h2), rfl, rfl, rfl, rfl⟩,
    fun h h2 h3 => ⟨_, hi _ (checkRange_inverted h h2 h3), rfl, rfl, rfl, rfl⟩⟩

/-! ## `BUF.GETR` and `BUF.PUTR` -/

/-- `BUF.GETR` answers the error of the range check (R123). -/
theorem bufGetr_range_error {range : RangeArg} {s : State} {x : ErrRec} (h : checkRange s.len range = .err x) :
    Replies (.bufGetr range) s (.err x) := by
  have hread : readRange s.buf range = .err x := by rw [readRange, buf_length, h, bind_err]
  change respond ((readRange s.buf range).map Value.bytes) s = _
  rw [hread]
  rfl

/-- The bytes of a slice inside the buffer are those of the buffer from its start on. -/
theorem bytesAt_slice {s : State} {a n : Nat} (h : a + n ≤ s.len) : BytesAt s a (slice s.buf a n) := by
  intro k hk
  rw [slice_length _ _ _ (by rwa [buf_length])] at hk
  rw [read_eq_buf, slice_getElem? _ _ _ _ hk]

/-- Settles O13: the range check answers its error, or the range it resolved is read. -/
theorem bufGetrReadsTheRange : Obligations.BufGetrReadsTheRange := by
  unfold Obligations.BufGetrReadsTheRange
  intro r s a e hr
  obtain ⟨rfl, rfl⟩ := resolves_iff.mp hr
  refine ⟨rangeErrors_of_checkRange fun x => bufGetr_range_error, fun h h2 h3 => ?_⟩
  refine ⟨_, ?_, bytesAt_slice (by omega), bufGetr_replies (checkRange_inside h h2 h3)⟩
  exact slice_length _ _ _ (by rw [buf_length]; omega)

/-- `BUF.PUTR` answers the error of the range check, where `BUF_RW` is true (R124). -/
theorem bufPutr_range_error {range : RangeArg} {data : List Byte} {s : State} {x : ErrRec}
    (hrw : s.par.bufRw = true) (h : checkRange s.len range = .err x) :
    Replies (.bufPutr range data) s (.err x) := by
  change execBufPutr range data s = _
  simp only [execBufPutr, hrw, h]
  rfl

/-- `BUF.PUTR` of a range that passes the check refuses data of another length, or writes them (R124). -/
theorem execBufPutr_inside {range : RangeArg} {data : List Byte} {s : State} {a e : Nat} {d : List ErrRec}
    (hrw : s.par.bufRw = true) (h : checkRange s.len range = .ok (a, e) d) :
    execBufPutr range data s =
      if data.length ≠ e - a then
        respond (.err { boundsErr .lengthMismatch .rangeArgument 0 s.len with
          index := mismatchField data.length
          code := BitVec.ofNat 16 (e - a) }) s
      else respond (.ok .unit []) { s with mem := s.mem.write a data } := by
  simp only [execBufPutr, hrw, h]
  rfl

/-- Settles O14: the tests in their order, and then the write, whose reads are those of `read_write`. -/
theorem bufPutrReplacesTheRange : Obligations.BufPutrReplacesTheRange := by
  unfold Obligations.BufPutrReplacesTheRange
  intro r data s a e hr
  obtain ⟨rfl, rfl⟩ := resolves_iff.mp hr
  refine ⟨fun hrw => ⟨_, bufPutr_not_writable r data hrw, rfl⟩,
    fun hrw => rangeErrors_of_checkRange fun x => bufPutr_range_error hrw, fun hrw h h2 h3 hlen => ?_,
    fun hrw h h2 h3 hlen => ?_⟩
  · exact ⟨_, (execBufPutr_inside hrw (checkRange_inside h h2 h3)).trans (if_pos hlen), rfl, rfl, rfl, rfl⟩
  · have hfit : resolveStart r.start + data.length ≤ s.mem.length := by
      change _ ≤ s.len
      omega
    refine ⟨_, (execBufPutr_inside hrw (checkRange_inside h h2 h3)).trans (if_neg (not_not.mpr hlen)),
      write_length _ _ _ hfit, fun k hk => ?_, fun k hk => ?_⟩
    · rw [read_write _ _ _ hfit, if_pos (by omega), Nat.add_sub_cancel_left]
    · rw [read_write _ _ _ hfit, if_neg (by omega)]

end Sys2Proof.Proofs

/-! PROOF. The packing of a CartridgeType (R96, R177) and the mask of a CpuFlags byte (R92). -/

namespace Sys2Proof.Proofs

open Sys2Proof.Machine Sys2Proof.Spec

/-! ## The packing of a CartridgeType (R96, R177) -/

theorem mbcOfCode_mbcCode (m : Mbc) : mbcOfCode (mbcCode m) = some m := by
  cases m <;> decide

theorem mbcCode_of_mbcOfCode {c : BitVec 3} {m : Mbc} (h : mbcOfCode c = some m) : mbcCode m = c := by
  simp only [mbcOfCode] at h
  split_ifs at h <;> cases h <;> simp [mbcCode, *]

theorem mbcOfCode_eq_none_iff (c : BitVec 3) : mbcOfCode c = none ↔ c = 4 := by
  revert c
  decide

theorem ofBool_getLsbD {n : Nat} (w : BitVec n) (k : Nat) : BitVec.ofBool (w.getLsbD k) = w.extractLsb' k 1 := by
  apply BitVec.eq_of_getLsbD_eq
  intro i hi
  obtain rfl : i = 0 := by omega
  simp

/-- The bits [15:14] of a word are zero when both of them are. -/
theorem reservedBits_eq_zero_iff (w : Half) :
    w.extractLsb' 14 2 = 0 ↔ w.getLsbD 15 = false ∧ w.getLsbD 14 = false := by
  have hbits : ∀ c : BitVec 2, c = 0 ↔ c.getLsbD 1 = false ∧ c.getLsbD 0 = false := by decide
  rw [hbits, BitVec.getLsbD_extractLsb', BitVec.getLsbD_extractLsb']
  rfl

theorem packCtype_reservedBits (t : CartridgeType) : (packCtype t).extractLsb' 14 2 = 0 := by
  simp (disch := decide) only [packCtype, BitVec.extractLsb'_append_eq_of_le]
  exact BitVec.extractLsb'_zero

theorem packCtype_mbc (t : CartridgeType) : (packCtype t).extractLsb' 0 3 = mbcCode t.mbc :=
  BitVec.extractLsb'_append_eq_right

theorem packCtype_huc (t : CartridgeType) : (packCtype t).extractLsb' 12 2 = t.huc := by
  simp (disch := decide) only [packCtype, BitVec.extractLsb'_append_eq_of_le]
  exact BitVec.extractLsb'_append_eq_right

/-- A packed CartridgeType is read back field by field. -/
theorem unpackCtype_packCtype (t : CartridgeType) : unpackCtype (packCtype t) = some t := by
  rw [unpackCtype, if_pos (packCtype_reservedBits t), packCtype_mbc, mbcOfCode_mbcCode, packCtype_huc]
  simp only [packCtype, BitVec.getLsbD_append]
  simp

/-- The fields read from a word, put side by side, are the word. -/
theorem packCtype_of_unpackCtype {w : Half} {t : CartridgeType} (h : unpackCtype w = some t) : packCtype t = w := by
  unfold unpackCtype at h
  split at h
  · next hreserved =>
    obtain ⟨m, hm, rfl⟩ := Option.map_eq_some_iff.mp h
    simp only [packCtype, mbcCode_of_mbcOfCode hm, ofBool_getLsbD, ← hreserved,
      BitVec.extractLsb'_append_extractLsb'_eq_extractLsb']
    exact BitVec.extractLsb'_eq_self
  · cases h

theorem unpackCtype_eq_none_iff (w : Half) :
    unpackCtype w = none ↔ w.extractLsb' 14 2 ≠ 0 ∨ w.extractLsb' 0 3 = 4 := by
  unfold unpackCtype
  split
  · next hreserved => simp [hreserved, mbcOfCode_eq_none_iff]
  · next hreserved => exact iff_of_true rfl (.inl hreserved)

/-- Settles O20: the fields of a packed word are read back one by one, and the fields of a well-formed word, side by
side, are the word. -/
theorem cartridgeTypePacks : Obligations.CartridgeTypePacks := by
  unfold Obligations.CartridgeTypePacks
  refine ⟨unpackCtype_packCtype, fun w t => packCtype_of_unpackCtype, fun w => ?_⟩
  rw [unpackCtype_eq_none_iff, ne_eq, reservedBits_eq_zero_iff, not_and_or, or_assoc, Bool.not_eq_false,
    Bool.not_eq_false]

/-! ## CpuFlags (R92) -/

/-- The mask keeps the bits 7 to 4 of the raw byte (R92). -/
theorem cpuFlags_getLsbD (b : Byte) {k : Nat} (hk : k < 8) :
    (cpuFlags b).getLsbD k = (b.getLsbD k && decide (4 ≤ k)) := by
  have mask : ∀ k, k < 8 → (0xF0 : Byte).getLsbD k = decide (4 ≤ k) := by decide
  rw [cpuFlags, BitVec.getLsbD_and, mask k hk]

/-- Settles O60: the mask keeps bit `k` exactly when `4 ≤ k`. -/
theorem cpuFlagsMaskTheLowNibble : Obligations.CpuFlagsMaskTheLowNibble := by
  unfold Obligations.CpuFlagsMaskTheLowNibble
  intro b
  refine ⟨fun k hk => ?_, ?_, ?_, ?_, ?_⟩
  · rw [cpuFlags_getLsbD b (by omega), decide_eq_false (by omega), Bool.and_false]
  all_goals exact (cpuFlags_getLsbD b (by decide)).trans (Bool.and_true _)

end Sys2Proof.Proofs

/-! PROOF. The load of an image and the read of one byte (R120, R121, R311, R313). -/

namespace Sys2Proof.Proofs

open Sys2Proof.Machine Sys2Proof.Spec

/-! ## `BUF.LOAD` -/

/-- After a load only the parameters, `SET` and the queue are those of before; the rest is the image, its name, the
response and the reset values (R120, R311). -/
theorem exec_bufLoad {image : List Byte} (name : Text) (s : State) (h : image.length ≤ 65536) :
    exec (.bufLoad image name) s =
      .next { State.resetWith s.par with
        mem := Memory.ofImage image, name := name, keys := s.keys, inbox := s.inbox, resp := some (.ok .unit []) } :=
  if_neg (Nat.not_lt.mpr h)

theorem bufLoad_too_long {image : List Byte} (name : Text) (s : State) (h : 65536 < image.length) :
    Replies (.bufLoad image name) s
      (.err { refusedErr .loadTooLong s.len with index := loadTooLongField image.length }) :=
  if_pos h

theorem loadTooLongField_of_lt {n : Nat} (h : n < 131072) : loadTooLongField n = BitVec.ofNat 17 n := if_pos h

/-- Settles O11: the buffer of the next state is `Memory.ofImage image`, whose reads and form are known. -/
theorem bufLoadInstallsTheImage : Obligations.BufLoadInstallsTheImage := by
  unfold Obligations.BufLoadInstallsTheImage
  intro image name s
  constructor
  · intro h
    exact ⟨Memory.ofImage image, exec_bufLoad name s h, ofImage_length image, ofImage_wf image h, read_ofImage image⟩
  · intro h
    exact ⟨_, bufLoad_too_long name s h, rfl, loadTooLongField_of_lt⟩

/-- Settles O57: a load takes from the state before it only the parameters, `SET` and the queue, and of these
`EPD.CLEAR` empties `SET`. -/
theorem loadForgetsHistory : Obligations.LoadForgetsHistory := by
  unfold Obligations.LoadForgetsHistory
  constructor
  · intro image name s t hlen hpar
    exact ⟨(loadImage image name s).answer (.ok .unit []), exec_bufLoad name s hlen, hpar ▸ exec_bufLoad name t hlen⟩
  · intro s
    exact ⟨_, exec_bufLoad [] s (Nat.zero_le _), _, rfl, rfl⟩

/-! ## `BUF.GETB` -/

/-- `BUF.GETB` answers the result of the one-byte read (R121). -/
theorem bufGetb_replies {index : Half} {s : State} {r : Reply Byte}
    (h : memByte s.buf index.toNat .rangeArgument = r) : Replies (.bufGetb index) s (r.map Value.byte) :=
  h ▸ rfl

/-- Settles O12: the one-byte read finds the byte of an index below `LEN`, and gives the INDEX error elsewhere. -/
theorem bufGetbReadsOneByte : Obligations.BufGetbReadsOneByte := by
  unfold Obligations.BufGetbReadsOneByte
  intro index s
  rw [← buf_length]
  constructor
  · intro h
    have hbyte : s.buf[index.toNat]? = some s.buf[index.toNat] := List.getElem?_eq_getElem h
    exact ⟨_, (read_eq_buf s _).trans hbyte, bufGetb_replies (memByte_ok _ _ _ _ hbyte)⟩
  · intro h
    exact ⟨_, bufGetb_replies (memByte_err _ _ _ h), rfl, rfl, rfl, rfl⟩

end Sys2Proof.Proofs

/-! PROOF. The fields of the header (R140 to R159): what an operation answers that reads one byte or one range, the
codes and the title region, and `HDR.ALL`. -/

namespace Sys2Proof.Proofs

open Sys2Proof.Machine Sys2Proof.Spec

/-! ## Bytes that stand in the buffer -/

/-- Bytes that stand at an index are the slice there. -/
theorem slice_of_bytesAt {s : State} {a : Nat} {l : List Byte} (h : BytesAt s a l) : slice s.buf a l.length = l := by
  apply List.ext_getElem?
  intro k
  rcases Nat.lt_or_ge k l.length with hk | hk
  · rw [slice_getElem? _ _ _ _ hk, ← read_eq_buf, h k hk]
  · rw [List.getElem?_eq_none hk, List.getElem?_eq_none]
    exact (List.length_take_le _ _).trans hk

/-- Bytes that stand at an index end inside the buffer. -/
theorem bytesAt_le_len {s : State} {a : Nat} {l : List Byte} (h : BytesAt s a l) (hne : 0 < l.length) :
    a + l.length ≤ s.len := by
  have hlast : s.buf[a + (l.length - 1)]? = some l[l.length - 1] := by
    rw [← read_eq_buf, h _ (by omega), List.getElem?_eq_getElem]
  have hlt := (List.getElem?_eq_some_iff.mp hlast).1
  rw [buf_length] at hlt
  omega

/-- Bytes that stand at an index stand there from any later position on too. -/
theorem bytesAt_drop {s : State} {a : Nat} {l : List Byte} (h : BytesAt s a l) (n : Nat) :
    BytesAt s (a + n) (l.drop n) := by
  intro k hk
  rw [List.length_drop] at hk
  rw [List.getElem?_drop, Nat.add_assoc, h _ (by omega)]

theorem bytesAt_take {s : State} {a : Nat} {l : List Byte} (h : BytesAt s a l) (n : Nat) :
    BytesAt s a (l.take n) := by
  intro k hk
  rw [List.length_take] at hk
  rw [h k (by omega), List.getElem?_take_of_lt (by omega)]

theorem bytesAt_pair {s : State} {a : Nat} {x y : Byte} (hx : Memory.read s.mem a = some x)
    (hy : Memory.read s.mem (a + 1) = some y) : BytesAt s a [x, y]
  | 0, _ => hx
  | 1, _ => hy

/-! ## Operations that read one byte (R52) -/

/-- `i` answers `g b` for the byte `b` at index `a`, and INDEX where the buffer holds none. -/
def AnswersByte (i : Instr) (a : Nat) (f : Field) (g : Byte → Response) (s : State) : Prop :=
  (∀ b, Memory.read s.mem a = some b → Replies i s (g b)) ∧ MissesByte i a f s

section
variable {i : Instr} {a : Nat} {f : Field} {g : Byte → Response} {s : State}

theorem AnswersByte.replies {b : Byte} (h : AnswersByte i a f g s) (hb : Memory.read s.mem a = some b) :
    Replies i s (g b) :=
  h.1 b hb

theorem AnswersByte.replies_code {b c : Byte} (h : AnswersByte i a f g s) (hb : Memory.read s.mem a = some b)
    (hc : b = c) : Replies i s (g c) :=
  h.1 c (hc ▸ hb)

theorem AnswersByte.misses (h : AnswersByte i a f g s) : MissesByte i a f s := h.2

/-- An operation whose response is made from the one-byte read, and that passes the error of the read on. -/
theorem answersByte_of_memByte (r : Reply Byte → Response) (hi : Replies i s (r (memByte s.buf a f)))
    (hok : ∀ b, r (.ok b []) = g b) (herr : ∀ e, r (.err e) = .err e) : AnswersByte i a f g s := by
  constructor
  · intro b hb
    rw [read_eq_buf] at hb
    rw [memByte_ok _ _ _ _ hb, hok] at hi
    exact hi
  · intro h
    rw [memByte_err _ _ _ (by rwa [buf_length]), herr, buf_length] at hi
    exact ⟨_, hi, rfl, rfl, rfl, rfl⟩

/-- An operation that answers the byte itself (R156 to R158). -/
theorem answersByte_of_raw (hi : Replies i s ((memByte s.buf a f).map Value.byte)) :
    AnswersByte i a f (fun b => .ok (.byte b) []) s :=
  answersByte_of_memByte (fun r => r.map Value.byte) hi (fun _ => rfl) fun _ => rfl

/-- An operation that answers a flag that the byte is read as (R149, R151). -/
theorem answersByte_of_flag {α : Type} (flag : Byte → α) (inj : α → Value)
    (hi : Replies i s (((memByte s.buf a f).map flag).map inj)) :
    AnswersByte i a f (fun b => .ok (inj (flag b)) []) s :=
  answersByte_of_memByte (fun r => (r.map flag).map inj) hi (fun _ => rfl) fun _ => rfl

/-- An operation that looks the byte up in a table (R152 to R155). -/
theorem answersByte_of_table {α : Type} (look : Byte → Reply α) (inj : α → Value)
    (hi : Replies i s (((memByte s.buf a f).bind fun b => (look b).raisedAt s.buf.length).map inj)) :
    AnswersByte i a f (fun b => ((look b).raisedAt s.len).map inj) s :=
  answersByte_of_memByte (fun r => (r.bind fun b => (look b).raisedAt s.buf.length).map inj) hi
    (fun b => by rw [bind_ok, buf_length]) fun _ => rfl

end

theorem hdrOldlic_answers (s : State) : AnswersByte .hdrOldlic 0x014B .oldLicensee (fun b => .ok (.byte b) []) s :=
  answersByte_of_raw rfl

theorem hdrVer_answers (s : State) : AnswersByte .hdrVer 0x014C .version (fun b => .ok (.byte b) []) s :=
  answersByte_of_raw rfl

theorem hdrHchk_answers (s : State) : AnswersByte .hdrHchk 0x014D .headerChecksum (fun b => .ok (.byte b) []) s :=
  answersByte_of_raw rfl

theorem hdrCgb_answers (s : State) : AnswersByte .hdrCgb 0x0143 .cgbFlag (fun b => .ok (.cgb (cgbOf b)) []) s :=
  answersByte_of_flag cgbOf Value.cgb rfl

theorem hdrSgb_answers (s : State) : AnswersByte .hdrSgb 0x0146 .sgbFlag (fun b => .ok (.bit (sgbOf b)) []) s :=
  answersByte_of_flag sgbOf Value.bit rfl

theorem hdrCtype_answers (s : State) :
    AnswersByte .hdrCtype 0x0147 .cartridgeType (fun b => ((ctypeOf s.par b).raisedAt s.len).map Value.ctype) s :=
  answersByte_of_table (ctypeOf s.par) Value.ctype rfl

theorem hdrRomsz_answers (s : State) :
    AnswersByte .hdrRomsz 0x0148 .romSize (fun b => ((romsizeOf b).raisedAt s.len).map Value.romBytes) s :=
  answersByte_of_table romsizeOf Value.romBytes rfl

theorem hdrRamsz_answers (s : State) :
    AnswersByte .hdrRamsz 0x0149 .ramSize (fun b => ((ramsizeOf b).raisedAt s.len).map Value.ramBytes) s :=
  answersByte_of_table ramsizeOf Value.ramBytes rfl

theorem hdrDest_answers (s : State) :
    AnswersByte .hdrDest 0x014A .destination (fun b => ((destOf s.par b).raisedAt s.len).map Value.dest) s :=
  answersByte_of_table (destOf s.par) Value.dest rfl

/-! ## The codes of one byte -/

theorem ctypeOf_hit {p : Params} {b : Byte} {t : CartridgeType} (h : ctypeRom p b = some t) :
    ctypeOf p b = .ok t [] := by
  simp only [ctypeOf, h]

theorem ctypeOf_miss {p : Params} {b : Byte} (h : ctypeRom p b = none) :
    ctypeOf p b = .err (tableMiss .unknownTableCode .cartridgeType (b.setWidth 16) 0x0147 0) := by
  simp only [ctypeOf, h]

/-- The codes 0x23 to 0xFB have no entry (R176). -/
theorem ctypeRom_gap {p : Params} {b : Byte} (h : 0x23 ≤ b.toNat) (h2 : b.toNat ≤ 0xFB) : ctypeRom p b = none := by
  have hgap : 0x23 ≤ b ∧ b ≤ 0xFB := ⟨BitVec.le_def.mpr h, BitVec.le_def.mpr h2⟩
  rw [ctypeRom, if_neg (by bv_omega), if_neg (by bv_omega), if_pos hgap]

/-- Settles O19: the answer is that of `ctypeOf`, whose two cases are the two of the table. -/
theorem hdrCartridgeType : Obligations.HdrCartridgeType := by
  unfold Obligations.HdrCartridgeType
  refine ⟨fun s b hb => ⟨fun w hw => ?_, fun hnone => ?_⟩, fun s => (hdrCtype_answers s).misses,
    fun p => ⟨rfl, rfl, fun b => ctypeRom_gap⟩⟩
  · have hreply := (hdrCtype_answers s).replies hb
    rw [ctypeOf_hit hw] at hreply
    exact hreply
  · have hreply := (hdrCtype_answers s).replies hb
    rw [ctypeOf_miss hnone] at hreply
    exact ⟨_, hreply, rfl, rfl, rfl, rfl⟩

theorem romsizeOf_regular {b : Byte} (h : b.toNat ≤ 8) :
    romsizeOf b = .ok (BitVec.ofNat 24 (32768 * 2 ^ b.toNat)) [] :=
  if_pos (BitVec.le_def.mpr h)

theorem romsizeOf_miss {b : Byte} (h : 8 < b.toNat) (h2 : b ∉ [0x52, 0x53, 0x54]) :
    romsizeOf b = .err (tableMiss .unknownTableCode .romSize (b.setWidth 16) 0x0148 0) := by
  simp only [List.mem_cons, List.not_mem_nil, or_false, not_or] at h2
  obtain ⟨h52, h53, h54⟩ := h2
  rw [romsizeOf, if_neg (by bv_omega), if_neg h52, if_neg h53, if_neg h54]

theorem ramsizeOf_miss {b : Byte} (h : 5 < b.toNat) :
    ramsizeOf b = .ok 0 [tableMiss .degradedTableCode .ramSize (b.setWidth 16) 0x0149 0] := by
  unfold ramsizeOf
  iterate 6 rw [if_neg (by bv_omega)]

/-- Settles O21: a code in the table is evaluated, and every other byte is a miss of `romsizeOf` or `ramsizeOf`. -/
theorem hdrRomAndRamSizes : Obligations.HdrRomAndRamSizes := by
  unfold Obligations.HdrRomAndRamSizes
  intro s
  have hrom := hdrRomsz_answers s
  have hram := hdrRamsz_answers s
  refine ⟨fun b hb => ?_, hrom.misses, fun b hb => ?_, hram.misses⟩
  · refine ⟨fun h => ?_, hrom.replies_code hb, hrom.replies_code hb, hrom.replies_code hb, fun h h2 => ?_⟩
    · have hreply := hrom.replies hb
      rw [romsizeOf_regular h] at hreply
      exact hreply
    · have hreply := hrom.replies hb
      rw [romsizeOf_miss h h2] at hreply
      exact ⟨_, hreply, rfl, rfl, rfl, rfl⟩
  · refine ⟨hram.replies_code hb, hram.replies_code hb, hram.replies_code hb, hram.replies_code hb,
      hram.replies_code hb, hram.replies_code hb, fun h => ?_⟩
    have hreply := hram.replies hb
    rw [ramsizeOf_miss h] at hreply
    exact ⟨_, hreply, rfl, rfl, rfl, rfl⟩

/-- Settles O22: the answer is that of `destOf`, whose cases are those of the table. -/
theorem hdrDestination : Obligations.HdrDestination := by
  unfold Obligations.HdrDestination
  refine fun s => ⟨fun b hb => ?_, (hdrDest_answers s).misses⟩
  have hreply := (hdrDest_answers s).replies hb
  unfold destOf at hreply
  refine ⟨fun h => ?_, fun h => ?_, fun h => ?_⟩ <;> rw [h] at hreply
  · exact hreply
  · exact hreply
  · exact ⟨_, hreply, rfl, rfl, rfl, rfl⟩

theorem cgbOf_eq_none_iff (b : Byte) : cgbOf b = .none ↔ b ∉ [0x80, 0xC0, 0x88, 0x84] := by
  unfold cgbOf
  split_ifs <;> simp_all

/-- Settles O18: the four recognised bytes are evaluated, and every other byte gives `cgbOf` its last case. -/
theorem hdrCgbAndSgbFlags : Obligations.HdrCgbAndSgbFlags := by
  unfold Obligations.HdrCgbAndSgbFlags
  intro s
  have hcgb := hdrCgb_answers s
  have hsgb := hdrSgb_answers s
  refine ⟨fun b hb => ⟨hcgb.replies_code hb, hcgb.replies_code hb, fun h => ?_, fun h => ?_⟩, hcgb.misses,
    fun b => hsgb.replies, hsgb.misses⟩
  · rcases h with h | h <;> exact hcgb.replies_code hb h
  · have hreply := hcgb.replies hb
    rw [(cgbOf_eq_none_iff b).mpr h] at hreply
    exact hreply

/-! ## Operations that read a range (R52) -/

/-- `i` answers `g l` for the `n` bytes `l` at index `a`, and START or END where they are not all in the buffer. -/
def AnswersRange (i : Instr) (a n : Nat) (f : Field) (g : List Byte → Response) (s : State) : Prop :=
  (∀ l, l.length = n → BytesAt s a l → Replies i s (g l)) ∧
  (s.len ≤ a → Fails i s (BoundsRec .start f a s.len)) ∧
  (a < s.len → s.len < a + n → Fails i s (BoundsRec .stop f (a + n) s.len))

section
variable {i : Instr} {a n : Nat} {f : Field} {g : List Byte → Response} {s : State}

theorem AnswersRange.replies {l : List Byte} (h : AnswersRange i a n f g s) (hl : l.length = n)
    (hbytes : BytesAt s a l) : Replies i s (g l) :=
  h.1 l hl hbytes

/-- An operation whose response is made from the read of a range, and that passes the error of the read on. -/
theorem answersRange_of_memRead (r : Reply (List Byte) → Response) (hn : 1 < n)
    (hi : Replies i s (r (memRead s.buf a n f))) (hok : ∀ l, r (.ok l []) = g l)
    (herr : ∀ e, r (.err e) = .err e) : AnswersRange i a n f g s := by
  refine ⟨fun l hl hbytes => ?_, fun h => ?_, fun h h2 => ?_⟩
  · have hfit : a + l.length ≤ s.buf.length := by
      rw [buf_length]
      exact bytesAt_le_len hbytes (by omega)
    rw [memRead_ok _ _ _ _ (by omega) (by omega), ← hl, slice_of_bytesAt hbytes, hok] at hi
    exact hi
  · rw [memRead_start _ _ _ _ (by rwa [buf_length]), herr, if_neg (by omega), buf_length] at hi
    exact ⟨_, hi, rfl, rfl, rfl, rfl⟩
  · rw [memRead_stop _ _ _ _ (by rwa [buf_length]) (by rwa [buf_length]), herr, buf_length] at hi
    exact ⟨_, hi, rfl, rfl, rfl, rfl⟩

/-- An operation that answers the bytes themselves (R141, R142, R150). -/
theorem readsField_of_memRead (hn : 1 < n) (hi : Replies i s ((memRead s.buf a n f).map Value.bytes)) :
    ReadsField i a n f s := by
  obtain ⟨hbytes, hbounds⟩ : AnswersRange i a n f (fun l => .ok (.bytes l) []) s :=
    answersRange_of_memRead (fun r => r.map Value.bytes) hn hi (fun _ => rfl) fun _ => rfl
  refine ⟨fun h => ?_, hbounds⟩
  have hlen : (slice s.buf a n).length = n := slice_length _ _ _ (by rwa [buf_length])
  exact ⟨_, hlen, bytesAt_slice h, hbytes _ hlen (bytesAt_slice h)⟩

end

/-- Settles O16: each of the three is the read of its field. -/
theorem hdrByteSequences : Obligations.HdrByteSequences := by
  unfold Obligations.HdrByteSequences
  exact fun s => ⟨readsField_of_memRead (by decide) rfl, readsField_of_memRead (by decide) rfl,
    readsField_of_memRead (by decide) rfl⟩

theorem bigEndian_pair (x y : Byte) : bigEndian [x, y] = x ++ y := by
  apply BitVec.eq_of_toNat_eq
  rw [BitVec.toNat_append, ← Nat.shiftLeft_add_eq_or_of_lt y.isLt, Nat.shiftLeft_eq]
  simp only [bigEndian, List.foldl, BitVec.toNat_ofNat]
  omega

theorem hdrGchk_answers (s : State) :
    AnswersRange .hdrGchk 0x014E 2 .globalChecksum (fun l => .ok (.half (bigEndian l)) []) s :=
  answersRange_of_memRead (fun r => (r.map bigEndian).map Value.half) (by decide) rfl (fun _ => rfl) fun _ => rfl

/-- Settles O17: three one-byte reads, and a read of two bytes taken as one big-endian number. -/
theorem hdrRawBytesAndChecksums : Obligations.HdrRawBytesAndChecksums := by
  unfold Obligations.HdrRawBytesAndChecksums
  intro s
  obtain ⟨holdlic, holdlicMiss⟩ := hdrOldlic_answers s
  obtain ⟨hver, hverMiss⟩ := hdrVer_answers s
  obtain ⟨hhchk, hhchkMiss⟩ := hdrHchk_answers s
  obtain ⟨hgchk, hstart, hstop⟩ := hdrGchk_answers s
  refine ⟨holdlic, holdlicMiss, hver, hverMiss, hhchk, hhchkMiss, fun g0 g1 h0 h1 => ?_, hstart,
    fun h => hstop (by omega) (by omega)⟩
  rw [← bigEndian_pair]
  exact hgchk [g0, g1] rfl (bytesAt_pair h0 h1)

/-! ## The title region (R144 to R148) -/

theorem isUpperAlnum_iff (b : Byte) : isUpperAlnum b = true ↔ UpperAlnum b := by
  simp [isUpperAlnum, UpperAlnum, BitVec.le_def]

/-- The model's test of the manufacturer code is that of R145. -/
theorem manufPresent_iff {t : List Byte} (ht : 15 ≤ t.length) : manufPresent t = true ↔ ManufPresent t := by
  rw [manufPresent, List.all_eq_true]
  constructor
  · intro h k h11 h14
    have hk : t[k]? = some t[k] := List.getElem?_eq_getElem (by omega)
    refine ⟨_, hk, (isUpperAlnum_iff _).mp (h _ (List.mem_iff_getElem?.mpr ⟨k - 11, ?_⟩))⟩
    rw [slice_getElem? _ _ _ _ (by omega), Nat.add_sub_cancel' h11, hk]
  · intro h b hb
    obtain ⟨j, hj⟩ := List.mem_iff_getElem?.mp hb
    have hj4 : j < 4 := by
      have hlt := (List.getElem?_eq_some_iff.mp hj).1
      rwa [slice_length _ _ _ (by omega)] at hlt
    rw [slice_getElem? _ _ _ _ hj4] at hj
    obtain ⟨c, hc, hupper⟩ := h (11 + j) (by omega) (by omega)
    obtain rfl : b = c := Option.some.inj (hj.symm.trans hc)
    exact (isUpperAlnum_iff b).mpr hupper

/-- The model's test of the CGB view is that of R145. -/
theorem regionCgb_ne_none_iff (t : List Byte) : regionCgb t ≠ .none ↔ CgbPresent t := by
  unfold regionCgb CgbPresent
  cases t[15]? with
  | none => simp
  | some b =>
    simp only [ne_eq, cgbOf_eq_none_iff, Option.some.injEq, List.mem_cons, List.not_mem_nil, or_false, not_not]
    tauto

theorem titleLength_eq {t : List Byte} {n : Nat} (ht : 15 ≤ t.length) (h : TitleLength t n) : titleLength t = n := by
  obtain ⟨hmanuf, hcgb, hplain⟩ := h
  by_cases hm : ManufPresent t
  · rw [titleLength, if_pos ((manufPresent_iff ht).mpr hm), hmanuf hm]
  · rw [titleLength, if_neg (mt (manufPresent_iff ht).mp hm)]
    by_cases hc : CgbPresent t
    · rw [if_pos ((regionCgb_ne_none_iff t).mpr hc), hcgb hm hc]
    · rw [if_neg (mt (regionCgb_ne_none_iff t).mp hc), hplain hm hc]

theorem trimZeros_eq_rdropWhile (l : List Byte) : trimZeros l = l.rdropWhile (· == 0) := rfl

/-- `trimZeros` takes off the trailing zeros and no more (R146). -/
theorem trimmed_trimZeros (l : List Byte) : Trimmed l (trimZeros l) := by
  rw [trimZeros_eq_rdropWhile]
  constructor
  · have hzeros : l.rtakeWhile (· == 0) = List.replicate (l.rtakeWhile (· == 0)).length 0 :=
      List.eq_replicate_of_mem fun b hb => beq_iff_eq.mp (List.mem_rtakeWhile_imp (p := (· == 0)) hb)
    exact ⟨_, hzeros ▸ List.rdropWhile_append_rtakeWhile.symm⟩
  · exact fun h => List.rdropWhile_last_not (· == 0) l _ (beq_iff_eq.mpr (List.getLast_of_getLast?_eq_some h))

theorem firstNonAscii_eq_none {l : List Byte} (n : Nat) (h : ∀ b ∈ l, b.toNat < 0x80) :
    firstNonAscii n l = none := by
  induction l generalizing n with
  | nil => rfl
  | cons x l ih =>
    obtain ⟨hx, hl⟩ := List.forall_mem_cons.mp h
    rw [firstNonAscii, if_neg (by bv_omega), ih _ hl]

theorem firstNonAscii_eq_some {l : List Byte} {k : Nat} {b : Byte} (n : Nat) (hk : l[k]? = some b)
    (hb : 0x80 ≤ b.toNat) (hbefore : ∀ j c, j < k → l[j]? = some c → c.toNat < 0x80) :
    firstNonAscii n l = some (n + k, b) := by
  induction l generalizing k n with
  | nil => simp at hk
  | cons x l ih =>
    cases k with
    | zero =>
      obtain rfl : x = b := by simpa using hk
      exact if_pos (by bv_omega)
    | succ k =>
      have hx : x.toNat < 0x80 := hbefore 0 x (Nat.succ_pos k) rfl
      rw [firstNonAscii, if_neg (by bv_omega),
        ih (n + 1) hk fun j c hj => hbefore (j + 1) c (Nat.succ_lt_succ hj), Nat.add_right_comm, Nat.add_assoc]

theorem hdrTitle_answers (s : State) :
    AnswersRange .hdrTitle 0x0134 16 .title (fun t => (titleOf t s.len).map Value.bytes) s :=
  answersRange_of_memRead (fun r => (r.bind fun t => titleOf t s.buf.length).map Value.bytes) (by decide) rfl
    (fun t => by rw [bind_ok, buf_length]) fun _ => rfl

/-- Settles O23: the answer is `trimZeros` of the effective part, or the byte that `firstNonAscii` finds in it. -/
theorem hdrTitleDecodes : Obligations.HdrTitleDecodes := by
  unfold Obligations.HdrTitleDecodes
  intro s
  refine ⟨fun t n ht hat hn => ?_, (hdrTitle_answers s).2⟩
  have hreply := (hdrTitle_answers s).replies ht hat
  simp only [titleOf, titleLength_eq (by omega) hn] at hreply
  refine ⟨_, trimmed_trimZeros _, fun h => ?_, fun k b hk hb hbefore => ?_⟩
  · rw [firstNonAscii_eq_none 0 h] at hreply
    exact hreply
  · rw [firstNonAscii_eq_some 0 hk hb hbefore, Nat.zero_add] at hreply
    exact ⟨_, hreply, rfl, rfl, rfl, rfl⟩

theorem hdrManuf_answers (s : State) :
    AnswersRange .hdrManuf 0x0134 16 .manufacturer
      (fun t => .ok (.bytesOption (if manufPresent t then some (slice t 11 4) else none)) []) s :=
  answersRange_of_memRead
    (fun r => (r.map fun t => if manufPresent t then some (slice t 11 4) else none).map Value.bytesOption)
    (by decide) rfl (fun _ => rfl) fun _ => rfl

/-- Settles O24: the four bytes 11 to 14 of the region stand at 0x013F, and `manufPresent` is the test of R145. -/
theorem hdrManufacturerDecodes : Obligations.HdrManufacturerDecodes := by
  unfold Obligations.HdrManufacturerDecodes
  intro s
  refine ⟨fun t ht hat => ?_, (hdrManuf_answers s).2⟩
  have hreply := (hdrManuf_answers s).replies ht hat
  rw [← manufPresent_iff (by omega)]
  refine ⟨fun h => ?_, fun h => ?_⟩
  · rw [if_pos h] at hreply
    exact ⟨_, slice_length _ _ _ (by omega), bytesAt_take (bytesAt_drop hat 11) 4, hreply⟩
  · rw [if_neg h] at hreply
    exact hreply

/-! ## The whole header (R159) -/

/-- Settles O26: the slots of `hdrAllRecord` are the results that the separate operations answer with. -/
theorem hdrAllCollectsEverySlot : Obligations.HdrAllCollectsEverySlot := by
  unfold Obligations.HdrAllCollectsEverySlot
  intro s
  refine ⟨hdrAllRecord s.par s.buf, _, rfl, rfl, rfl, rfl, rfl, rfl, rfl, rfl, rfl, rfl, rfl, rfl, rfl, rfl, rfl, rfl,
    rfl, ?_, rfl⟩
  exact Bool.and_eq_true_iff

end Sys2Proof.Proofs

/-! PROOF. The licensee (R171 to R173): the old byte selects the table, and a miss of either table is a warning. -/

namespace Sys2Proof.Proofs

open Sys2Proof.Machine Sys2Proof.Spec

/-! ## The two tables -/

theorem oldLicensee_hit {p : Params} {o : Byte} {n : Text} (h : oldLicRom p o = some n) :
    oldLicensee p o = .ok ⟨.old, o, 0, true, n⟩ [] := by
  simp only [oldLicensee, h]

theorem oldLicensee_miss {p : Params} {o : Byte} (h : oldLicRom p o = none) :
    oldLicensee p o =
      .ok ⟨.old, o, 0, false, []⟩ [tableMiss .degradedTableCode .oldLicensee (o.setWidth 16) 0x014B 0] := by
  simp only [oldLicensee, h]

theorem newLicensee_hit {p : Params} {key : Half} {n : Text} (h : newLicRom p key = some n) :
    newLicensee p key = .ok ⟨.new, 0x33, key, true, n⟩ [] := by
  simp only [newLicensee, h]

theorem newLicensee_miss {p : Params} {key : Half} (h : newLicRom p key = none) :
    newLicensee p key =
      .ok ⟨.new, 0x33, key, false, []⟩ [tableMiss .degradedTableCode .newLicensee key 0x0144 0] := by
  simp only [newLicensee, h]

/-! ## The selection by the old byte (R173) -/

/-- What `HDR.LICENSEE` makes of the old byte: 0x33 reads the new key, every other byte is looked up itself. -/
def licenseeOf (p : Params) (buf : List Byte) (o : Byte) : Reply Licensee :=
  if o = 0x33 then
    (memRead buf 0x0144 2 .licensee).bind fun c => (newLicensee p (bigEndian c)).raisedAt buf.length
  else (oldLicensee p o).raisedAt buf.length

theorem hdrLicensee_answers (s : State) :
    AnswersByte .hdrLicensee 0x014B .licensee (fun o => (licenseeOf s.par s.buf o).map Value.licensee) s :=
  answersByte_of_memByte (fun r => (r.bind (licenseeOf s.par s.buf)).map Value.licensee) rfl
    (fun b => by rw [bind_ok]) fun _ => rfl

/-- Bytes that stand at an index, at least one, are what the read there gives. -/
theorem memRead_of_bytesAt {s : State} {a : Nat} {l : List Byte} (f : Field) (h : BytesAt s a l) (hl : 0 < l.length) :
    memRead s.buf a l.length f = .ok l [] := by
  have hfit : a + l.length ≤ s.buf.length := by
    rw [buf_length]
    exact bytesAt_le_len h hl
  rw [memRead_ok _ _ _ _ (by omega) hfit, slice_of_bytesAt h]

theorem hdrLicensee_replies_old {s : State} {o : Byte} (ho : Memory.read s.mem 0x014B = some o) (hne : o ≠ 0x33) :
    Replies .hdrLicensee s (((oldLicensee s.par o).raisedAt s.buf.length).map Value.licensee) := by
  have hreply := (hdrLicensee_answers s).replies ho
  rw [licenseeOf, if_neg hne] at hreply
  exact hreply

theorem hdrLicensee_replies_new {s : State} {c0 c1 : Byte} (ho : Memory.read s.mem 0x014B = some 0x33)
    (h0 : Memory.read s.mem 0x0144 = some c0) (h1 : Memory.read s.mem 0x0145 = some c1) :
    Replies .hdrLicensee s (((newLicensee s.par (c0 ++ c1)).raisedAt s.buf.length).map Value.licensee) := by
  have hkey : memRead s.buf 0x0144 2 .licensee = .ok [c0, c1] [] :=
    memRead_of_bytesAt .licensee (bytesAt_pair h0 h1) Nat.two_pos
  have hreply := (hdrLicensee_answers s).replies ho
  rw [licenseeOf, if_pos rfl, hkey, bind_ok, bigEndian_pair] at hreply
  exact hreply

/-- Settles O25: the old byte selects the table, and a hit or a miss of that table gives the record. -/
theorem hdrLicenseeResolves : Obligations.HdrLicenseeResolves := by
  unfold Obligations.HdrLicenseeResolves
  refine ⟨fun _ => rfl, fun s => ⟨fun o ho hne => ?_, fun c0 c1 ho h0 h1 => ?_, (hdrLicensee_answers s).misses⟩⟩
  · have hreply := hdrLicensee_replies_old ho hne
    refine ⟨fun n hhit => ?_, fun hmiss => ?_⟩
    · rw [oldLicensee_hit hhit] at hreply
      exact hreply
    · rw [oldLicensee_miss hmiss] at hreply
      exact ⟨_, hreply, rfl, rfl, rfl, rfl⟩
  · have hreply := hdrLicensee_replies_new ho h0 h1
    refine ⟨fun n hhit => ?_, fun hmiss => ?_⟩
    · rw [newLicensee_hit hhit] at hreply
      exact hreply
    · rw [newLicensee_miss hmiss] at hreply
      exact ⟨_, hreply, rfl, rfl, rfl, rfl⟩

end Sys2Proof.Proofs

/-! PROOF. The checksum generator and the validator (R200 to R209): the two sums in closed form, and what each check
makes of the results of the operations it compares. -/

namespace Sys2Proof.Proofs

open Sys2Proof.Machine Sys2Proof.Spec

/-! ## Operations whose range is in the buffer -/

section
variable {i : Instr} {a n : Nat} {f : Field} {g : List Byte → Response} {s : State}

/-- The range of an operation, where it lies inside the buffer, holds bytes that the operation answers for. -/
theorem AnswersRange.replies_inside (h : AnswersRange i a n f g s) (hfit : a + n ≤ s.len) :
    ∃ l, l.length = n ∧ BytesAt s a l ∧ Replies i s (g l) := by
  have hlen : (slice s.buf a n).length = n := slice_length _ _ _ (by rwa [buf_length])
  exact ⟨_, hlen, bytesAt_slice hfit, h.replies hlen (bytesAt_slice hfit)⟩

/-- A range that is not in the buffer gives an error (R52). -/
theorem AnswersRange.replies_err (h : AnswersRange i a n f g s) (hout : s.len < a + n) :
    ∃ e, Replies i s (.err e) := by
  obtain ⟨-, hstart, hstop⟩ := h
  rcases Nat.lt_or_ge a s.len with ha | ha
  · obtain ⟨e, he, -⟩ := hstop ha hout
    exact ⟨e, he⟩
  · obtain ⟨e, he, -⟩ := hstart ha
    exact ⟨e, he⟩

/-- An Ok response is the answer for the bytes of the range. -/
theorem AnswersRange.bytes_of_ok {v : Value} {d : List ErrRec} (h : AnswersRange i a n f g s)
    (hok : Replies i s (.ok v d)) : ∃ l, l.length = n ∧ BytesAt s a l ∧ g l = .ok v d := by
  rcases Nat.lt_or_ge s.len (a + n) with hout | hfit
  · obtain ⟨e, he⟩ := h.replies_err hout
    cases replies_unique he hok
  · obtain ⟨l, hlen, hat, hl⟩ := h.replies_inside hfit
    exact ⟨l, hlen, hat, replies_unique hl hok⟩

end

/-! ## `CHK.HDR` (R200, R201) -/

theorem chkHdr_answers (s : State) :
    AnswersRange .chkHdr 0x0134 25 .headerChecksum (fun h => .ok (.byte (headerSum h)) []) s :=
  answersRange_of_memRead (fun r => (r.map headerSum).map Value.byte) (by decide) rfl (fun _ => rfl) fun _ => rfl

/-- Settles O27: `CHK.HDR` answers `headerSum` of its range, which is the recurrence. -/
theorem chkHdrRecurrence : Obligations.ChkHdrRecurrence := by
  unfold Obligations.ChkHdrRecurrence
  exact fun s => ⟨(chkHdr_answers s).replies_inside, (chkHdr_answers s).2⟩

/-- The recurrence takes each byte off, and 1 for each of them. -/
theorem foldl_sub_sub_one (h : List Byte) (x : Byte) :
    h.foldl (fun x b => x - b - 1) x = x - h.sum - BitVec.ofNat 8 h.length := by
  induction h generalizing x with
  | nil => simp
  | cons b h ih =>
    rw [List.foldl_cons, ih, List.sum_cons, List.length_cons, BitVec.ofNat_add]
    change _ = x - (b + h.sum) - (BitVec.ofNat 8 h.length + 1)
    abel

theorem headerSum_eq (h : List Byte) : headerSum h = 0 - h.sum - BitVec.ofNat 8 h.length := foldl_sub_sub_one h 0

/-- The sum of bytes modulo 256 is that of their numbers. -/
theorem ofNat_sum_toNat (l : List Byte) : BitVec.ofNat 8 (l.map BitVec.toNat).sum = l.sum := by
  induction l with
  | nil => rfl
  | cons b l ih =>
    rw [List.map_cons, List.sum_cons, List.sum_cons, BitVec.ofNat_add, ih, BitVec.ofNat_toNat, BitVec.setWidth_eq]

/-- Each byte is a term of the sum, so another byte in its place gives another checksum. -/
theorem headerSum_set_ne {h : List Byte} {k : Nat} {b : Byte} (hk : k < h.length) (hne : h[k] ≠ b) :
    headerSum h ≠ headerSum (h.set k b) := by
  rw [headerSum_eq, headerSum_eq, List.length_set, List.sum_set', dif_pos hk]
  intro heq
  have hsum : h.sum = h.sum + (-h[k] + b) := sub_right_injective (sub_left_injective heq)
  exact hne (neg_add_eq_zero.mp (left_eq_add.mp hsum))

/-- Of two lists of one length that agree away from the position `k`, the second is the first with one item replaced. -/
theorem eq_set_of_getElem? {α : Type} {l m : List α} {k : Nat} {b : α} (hlen : m.length = l.length)
    (hk : m[k]? = some b) (hsame : ∀ j, j < m.length → j ≠ k → l[j]? = m[j]?) : m = l.set k b := by
  have hlt := (List.getElem?_eq_some_iff.mp hk).1
  apply List.ext_getElem?
  intro j
  rcases eq_or_ne j k with rfl | hj
  · rw [hk, List.getElem?_set_self (by omega)]
  · rw [List.getElem?_set_ne hj.symm]
    rcases Nat.lt_or_ge j m.length with hjm | hjm
    · exact (hsame j hjm hj).symm
    · rw [List.getElem?_eq_none hjm, List.getElem?_eq_none (by omega)]

/-- Settles O28: the closed form is `headerSum_eq`, and of two buffers that differ in one of the 25 bytes the second
holds the bytes of the first with that one replaced. -/
theorem chkHdrSeesEveryByte : Obligations.ChkHdrSeesEveryByte := by
  unfold Obligations.ChkHdrSeesEveryByte
  refine ⟨fun s h hlen hat => ?_, fun s t k x y hk hk2 hsame hdiff hx hy => ?_⟩
  · have hreply := (chkHdr_answers s).replies hlen hat
    rw [headerSum_eq, hlen, ← ofNat_sum_toNat, sub_right_comm] at hreply
    exact hreply
  · obtain ⟨h, hlen, hat, hh⟩ := (chkHdr_answers s).bytes_of_ok hx
    obtain ⟨m, mlen, mat, hm⟩ := (chkHdr_answers t).bytes_of_ok hy
    cases hh
    cases hm
    obtain ⟨j, rfl⟩ := Nat.exists_eq_add_of_le hk
    have hjh : h[j]? = some h[j] := List.getElem?_eq_getElem (by omega)
    have hjm : m[j]? = some m[j] := List.getElem?_eq_getElem (by omega)
    have hset : m = h.set j m[j] := eq_set_of_getElem? (by omega) hjm fun l hl hne => by
      rw [← hat l (by omega), ← mat l hl, hsame _ (by omega) (by omega) (by omega)]
    rw [hset]
    refine headerSum_set_ne (by omega) fun heq => hdiff ?_
    rw [hat j (by omega), mat j (by omega), hjh, hjm, heq]

/-! ## `CHK.GLB` (R202) -/

theorem foldl_add_setWidth (l : List Byte) (x : Half) :
    l.foldl (fun x b => x + b.setWidth 16) x = x + BitVec.ofNat 16 (l.map BitVec.toNat).sum := by
  induction l generalizing x with
  | nil => simp
  | cons b l ih =>
    rw [List.foldl_cons, ih, List.map_cons, List.sum_cons, BitVec.ofNat_add, BitVec.ofNat_toNat, add_assoc]

/-- The wraparound sum of the bytes is the sum of their numbers modulo 65536. -/
theorem wordSum_eq (l : List Byte) : wordSum l = BitVec.ofNat 16 (l.map BitVec.toNat).sum :=
  (foldl_add_setWidth l 0).trans (zero_add _)

theorem byteNat_eq_toNat {s : State} {a : Nat} {b : Byte} (h : Memory.read s.mem a = some b) :
    byteNat s a = b.toNat := by
  rw [byteNat, h, Option.elim_some]

/-- The numbers of bytes that stand in the buffer are those of their indices. -/
theorem map_toNat_of_bytesAt {s : State} {a : Nat} {l : List Byte} (h : BytesAt s a l) :
    l.map BitVec.toNat = (List.range' a l.length).map (byteNat s) := by
  apply List.ext_getElem (by simp)
  intro k hk _
  rw [List.length_map] at hk
  have hbyte : byteNat s (a + k) = l[k].toNat :=
    byteNat_eq_toNat ((h k hk).trans (List.getElem?_eq_getElem hk))
  simp [hbyte]

/-- The numbers of the bytes that are summed are those of the indices other than 0x014E and 0x014F. -/
theorem map_toNat_summedBytes (s : State) : (summedBytes s.buf).map BitVec.toNat =
    ((List.range s.len).filter fun a => a ≠ 0x014E ∧ a ≠ 0x014F).map (byteNat s) := by
  have hindices : List.range s.len = s.buf.zipIdx.map Prod.snd := by
    rw [List.zipIdx_map_snd, List.range_eq_range', buf_length]
  have htest : ((fun a => decide (a ≠ 0x014E ∧ a ≠ 0x014F)) ∘ Prod.snd) =
      fun c : Byte × Nat => c.2 != 0x014E && c.2 != 0x014F := by
    funext c
    simp [bne, Bool.beq_eq_decide_eq]
  rw [hindices, List.filter_map, List.map_map, summedBytes, List.map_map, htest]
  refine List.map_congr_left fun c hc => (byteNat_eq_toNat ?_).symm
  rw [read_eq_buf]
  exact List.mem_zipIdx_iff_getElem?.mp (List.mem_of_mem_filter hc)

theorem chkGlb_whole {s : State} (h : s.par.gchkRange = .whole) :
    Replies .chkGlb s (.ok (.half (wordSum (summedBytes s.buf))) []) := by
  change respond ((chkGlb s.par s.buf).map Value.half) s = _
  rw [chkGlb, h]
  rfl

theorem chkGlb_header_answers {s : State} (h : s.par.gchkRange = .header) :
    AnswersRange .chkGlb 0x0100 78 .globalChecksum (fun l => .ok (.half (wordSum l)) []) s := by
  have hreply : Replies .chkGlb s (((memRead s.buf 0x0100 78 .globalChecksum).map wordSum).map Value.half) := by
    change respond ((chkGlb s.par s.buf).map Value.half) s = _
    rw [chkGlb, h]
    rfl
  exact answersRange_of_memRead (fun r => (r.map wordSum).map Value.half) (by decide) hreply (fun _ => rfl)
    fun _ => rfl

/-- Settles O29: the sum of the bytes is that of the numbers at their indices, in both ranges. -/
theorem chkGlbSums : Obligations.ChkGlbSums := by
  unfold Obligations.ChkGlbSums
  refine fun s => ⟨fun h => ?_, fun h hfit => ?_, fun h => (chkGlb_header_answers h).2.1,
    fun h => (chkGlb_header_answers h).2.2⟩
  · rw [← map_toNat_summedBytes, ← wordSum_eq]
    exact chkGlb_whole h
  · obtain ⟨l, hlen, hat, hreply⟩ := (chkGlb_header_answers h).replies_inside hfit
    rw [wordSum_eq, map_toNat_of_bytesAt hat, hlen] at hreply
    exact hreply

/-! ## Results and responses -/

/-- An operation that answers an error has that error as its result. -/
theorem result_of_replies_err {α : Type} {i : Instr} {s : State} {r : Reply α} {inj : α → Value} {e : ErrRec}
    (hi : Replies i s (r.map inj)) (h : Replies i s (.err e)) : r = .err e := by
  have hr := replies_unique hi h
  cases r with
  | ok v d => cases hr
  | err e' =>
    cases hr
    rfl

/-- An operation that answers Ok has the value and the warnings of its response as its result. -/
theorem result_of_replies_ok {α : Type} {i : Instr} {s : State} {r : Reply α} {inj : α → Value} {v : α}
    {d : List ErrRec} (hinj : Function.Injective inj) (hi : Replies i s (r.map inj))
    (h : Replies i s (.ok (inj v) d)) : r = .ok v d := by
  have hr := replies_unique hi h
  cases r with
  | ok w d' =>
    injection hr with hv hd
    rw [hinj hv, hd]
  | err e => cases hr

theorem value_byte_injective : Function.Injective Value.byte := fun _ _ => Value.byte.inj

theorem value_half_injective : Function.Injective Value.half := fun _ _ => Value.half.inj

theorem hdrLogo_replies (s : State) : Replies .hdrLogo s ((hdrLogo s.buf).map Value.bytes) := rfl

theorem hdrCtype_replies (s : State) : Replies .hdrCtype s ((hdrCtype s.par s.buf).map Value.ctype) := rfl

theorem hdrRamsz_replies (s : State) : Replies .hdrRamsz s ((hdrRamsz s.buf).map Value.ramBytes) := rfl

theorem hdrHchk_replies (s : State) : Replies .hdrHchk s ((hdrHchk s.buf).map Value.byte) := rfl

theorem hdrGchk_replies (s : State) : Replies .hdrGchk s ((hdrGchk s.buf).map Value.half) := rfl

theorem chkHdr_replies (s : State) : Replies .chkHdr s ((chkHdr s.buf).map Value.byte) := rfl

theorem chkGlb_replies (s : State) : Replies .chkGlb s ((chkGlb s.par s.buf).map Value.half) := rfl

/-! ## `VAL.LOGO` (R205) -/

theorem hdrLogo_answers (s : State) : AnswersRange .hdrLogo 0x0104 48 .logo (fun l => .ok (.bytes l) []) s :=
  answersRange_of_memRead (fun r => r.map Value.bytes) (by decide) rfl (fun _ => rfl) fun _ => rfl

theorem valLogo_replies {s : State} {c : CheckResult} (h : valLogo s.par s.buf = c) :
    Replies .valLogo s (.ok (.check c) []) :=
  h ▸ rfl

theorem valLogo_err {p : Params} {buf : List Byte} {e : ErrRec} (h : hdrLogo buf = .err e) :
    valLogo p buf = undecodable .logo e := by
  rw [valLogo, h]

theorem valLogo_decoded {p : Params} {buf l : List Byte} {d : List ErrRec} (h : hdrLogo buf = .ok l d) :
    valLogo p buf =
      if l = p.logoRef.toList then verdict .logo .none none else verdict .logo .logoMismatch none := by
  rw [valLogo, h]

/-- Settles O30: the check follows the result of `HDR.LOGO`, an error or the 48 bytes. -/
theorem valLogoCompares : Obligations.ValLogoCompares := by
  unfold Obligations.ValLogoCompares
  refine fun s => ⟨fun h => ?_, fun h => ?_⟩
  · obtain ⟨e, he⟩ := (hdrLogo_answers s).replies_err h
    exact ⟨e, he, valLogo_replies (valLogo_err (result_of_replies_err (hdrLogo_replies s) he))⟩
  · obtain ⟨l, hlen, hat, hl⟩ := (hdrLogo_answers s).replies_inside h
    have hlogo := valLogo_decoded (p := s.par)
      (result_of_replies_ok (fun _ _ => Value.bytes.inj) (hdrLogo_replies s) hl)
    exact ⟨l, hlen, hat, fun heq => valLogo_replies (hlogo.trans (if_pos heq)),
      fun hne => valLogo_replies (hlogo.trans (if_neg hne))⟩

/-! ## `VAL.RAM` (R206) -/

theorem valRam_ctype_err {p : Params} {buf : List Byte} {e : ErrRec} (h : hdrCtype p buf = .err e) :
    valRam p buf = undecodable .ram e := by
  rw [valRam, h]

theorem valRam_ramsz_err {p : Params} {buf : List Byte} {w : CartridgeType} {d : List ErrRec} {e : ErrRec}
    (h : hdrCtype p buf = .ok w d) (h2 : hdrRamsz buf = .err e) : valRam p buf = undecodable .ram e := by
  rw [valRam, h, h2]

theorem valRam_decoded {p : Params} {buf : List Byte} {w : CartridgeType} {size : BitVec 18} {d d' : List ErrRec}
    (h : hdrCtype p buf = .ok w d) (h2 : hdrRamsz buf = .ok size d') :
    valRam p buf =
      if w.ram = true ∧ size = 0 then verdict .ram .ramFlagWithoutSize none
      else if w.ram = false ∧ size ≠ 0 then verdict .ram .ramSizeWithoutFlag none
      else verdict .ram .none none := by
  rw [valRam, h, h2]

/-- Settles O31: the check follows the results of the two fields, and the four cases of flag and size are those of its
two tests. -/
theorem valRamConsistency : Obligations.ValRamConsistency := by
  unfold Obligations.ValRamConsistency
  refine fun s => ⟨valRam s.par s.buf, rfl, fun e he => ?_, fun w e hw he => ?_, fun w size d hw hsize => ?_⟩
  · exact valRam_ctype_err (result_of_replies_err (hdrCtype_replies s) he)
  · exact valRam_ramsz_err (result_of_replies_ok (fun _ _ => Value.ctype.inj) (hdrCtype_replies s) hw)
      (result_of_replies_err (hdrRamsz_replies s) he)
  · rw [valRam_decoded (result_of_replies_ok (fun _ _ => Value.ctype.inj) (hdrCtype_replies s) hw)
      (result_of_replies_ok (fun _ _ => Value.ramBytes.inj) (hdrRamsz_replies s) hsize)]
    refine ⟨fun hram hzero => if_pos ⟨hram, hzero⟩, fun hram hsome => ?_, fun hram hsome => ?_,
      fun hram hzero => ?_⟩
    · rw [if_neg fun h => hsome h.2, if_pos ⟨hram, hsome⟩]
      rfl
    · rw [if_neg fun h => hsome h.2, if_neg fun h => Bool.false_ne_true (h.1.symm.trans hram)]
      rfl
    · rw [if_neg fun h => Bool.false_ne_true (hram.symm.trans h.1), if_neg fun h => h.2 hzero]
      rfl

/-! ## `VAL.HCHK` and `VAL.GCHK` (R207, R208) -/

/-- What a check reports of a computed sum `x` and a stored one `y`: both, and a mismatch with its record (R207). -/
def ReportsSums (field : Field) (index : Nat) (x y : Half) (c : CheckResult) : Prop :=
  c.computed = x ∧ c.stored = y ∧ (x = y → c.pass = true ∧ c.reason = .none ∧ c.cause = none) ∧
    (x ≠ y → c.pass = false ∧ c.reason = .checksumMismatch ∧
      ∃ e, c.cause = some e ∧ CodeRec .checksumMismatch field y index e)

section
variable {c : Check} {field : Field} {index len : Nat}

theorem compareSums_check (computed stored : Reply Half) :
    (compareSums c field index len computed stored).check = c := by
  unfold compareSums
  split
  · rfl
  · split
    · rfl
    · split <;> rfl

theorem compareSums_computed_err (e : ErrRec) (stored : Reply Half) :
    compareSums c field index len (.err e) stored = undecodable c e := rfl

theorem compareSums_stored_err (x : Half) (d : List ErrRec) (e : ErrRec) :
    compareSums c field index len (.ok x d) (.err e) = undecodable c e := rfl

theorem compareSums_reports (x y : Half) (d d' : List ErrRec) :
    ReportsSums field index x y (compareSums c field index len (.ok x d) (.ok y d')) := by
  simp only [compareSums]
  split
  · next heq => exact ⟨rfl, rfl, fun _ => ⟨rfl, rfl, rfl⟩, fun hne => absurd heq hne⟩
  · next hne => exact ⟨rfl, rfl, fun heq => absurd heq hne, fun _ => ⟨rfl, rfl, _, rfl, rfl, rfl, rfl, rfl⟩⟩

end

/-- Settles O32: the comparison of the two results, each byte widened to 16 bits, which keeps bytes apart. -/
theorem valHeaderChecksum : Obligations.ValHeaderChecksum := by
  unfold Obligations.ValHeaderChecksum
  refine fun s => ⟨valHchk s.buf, rfl, compareSums_check _ _, fun e he => ?_, fun x e hx he => ?_, fun x y hx hy => ?_⟩
  · rw [valHchk, result_of_replies_err (chkHdr_replies s) he, map_err, compareSums_computed_err]
    exact ⟨rfl, rfl, rfl⟩
  · rw [valHchk, result_of_replies_ok value_byte_injective (chkHdr_replies s) hx,
      result_of_replies_err (hdrHchk_replies s) he, map_ok, map_err, compareSums_stored_err]
    exact ⟨rfl, rfl, rfl⟩
  · rw [valHchk, result_of_replies_ok value_byte_injective (chkHdr_replies s) hx,
      result_of_replies_ok value_byte_injective (hdrHchk_replies s) hy, map_ok, map_ok]
    obtain ⟨hcomputed, hstored, hpass, hfail⟩ :=
      compareSums_reports (c := .headerChecksum) (field := .headerChecksum) (index := 0x014D) (len := s.buf.length)
        (x.setWidth 16) (y.setWidth 16) [] []
    exact ⟨hcomputed, hstored, fun heq => hpass (heq ▸ rfl), fun hne => hfail fun heq => hne (by bv_omega)⟩

/-- Settles O33: the comparison of the two results. -/
theorem valGlobalChecksum : Obligations.ValGlobalChecksum := by
  unfold Obligations.ValGlobalChecksum
  refine fun s => ⟨valGchk s.par s.buf, rfl, compareSums_check _ _, fun e he => ?_, fun x e hx he => ?_,
    fun x y hx hy => ?_⟩
  · rw [valGchk, result_of_replies_err (chkGlb_replies s) he, compareSums_computed_err]
    exact ⟨rfl, rfl, rfl⟩
  · rw [valGchk, result_of_replies_ok value_half_injective (chkGlb_replies s) hx,
      result_of_replies_err (hdrGchk_replies s) he, compareSums_stored_err]
    exact ⟨rfl, rfl, rfl⟩
  · rw [valGchk, result_of_replies_ok value_half_injective (chkGlb_replies s) hx,
      result_of_replies_ok value_half_injective (hdrGchk_replies s) hy]
    exact compareSums_reports x y [] []

/-! ## `VAL.ALL` (R209) -/

/-- Settles O34: the four CheckResults of `valAll` are those of the separate operations. -/
theorem valAllReports : Obligations.ValAllReports := by
  unfold Obligations.ValAllReports
  exact fun s => ⟨valLogo s.par s.buf, valRam s.par s.buf, valHchk s.buf, valGchk s.par s.buf, rfl, rfl, rfl, rfl, rfl⟩

end Sys2Proof.Proofs

/-! PROOF. A step of the disassembler (R224 to R232): what it does at an opcode with an entry, where the buffer ends too
early, and at an opcode without an entry. The classes of the target stream (R236 to R238) end in the same two ways, a
hit and a miss, so they are read off the same lemmas. -/

namespace Sys2Proof.Proofs

open Sys2Proof.Machine Sys2Proof.Spec

/-! ## The guard of a step (R226, R232) -/

/-- Settles O37: the start of a run is the same update in the statement and in the model. -/
theorem disStartBeginsARun : Obligations.DisStartBeginsARun := by
  unfold Obligations.DisStartBeginsARun
  exact fun m s => rfl

section
variable {s : State} {act : State → State × Reply StepEnd}

theorem onRunning_refuses (h : s.status ≠ .running) :
    onRunning s act = (s, .err (refusedErr .notRunning s.len)) := if_pos h

theorem onRunning_done (hrun : s.status = .running) (hend : s.i = s.len) :
    onRunning s act = ({ s with status := .done }, .ok .done []) := by
  rw [onRunning, if_neg (not_not.mpr hrun), if_pos hend]

theorem onRunning_act (hrun : s.status = .running) (hin : s.i ≠ s.len) : onRunning s act = act s := by
  rw [onRunning, if_neg (not_not.mpr hrun), if_neg hin]

theorem respondStep_refused_status {t : State} (hs : s.status ≠ .running)
    (h : respondStep (onRunning s act) = .next t) : t.status = s.status := by
  rw [onRunning_refuses hs] at h
  cases h
  rfl

end

/-- No operation that does not begin anew leaves a status other than RUNNING: the operations of the disassembler are
refused there, and the others do not write `STATUS` (R232). -/
theorem exec_status_of_not_running {i : Instr} {s t : State} (hs : s.status ≠ .running)
    (hi : startsAnew i = false) (h : exec i s = .next t) : t.status = s.status := by
  cases hdis : disassembles i with
  | false =>
    obtain ⟨u, r, hu, rfl⟩ := exec_effect h
    exact (hu.run_state hi hdis).2.1
  | true =>
    cases i with
    | disStep | nop | jpA16 | prefixCb | unknown => exact respondStep_refused_status hs h
    | disStart | disRun => cases hi
    | _ => cases hdis

/-- Settles O38: the first two clauses are the guard of a step, the third is that of every operation. -/
theorem disStepGuards : Obligations.DisStepGuards := by
  unfold Obligations.DisStepGuards
  refine ⟨fun s hs => ?_, fun s hrun hend => ?_, fun i s t hs h => ?_⟩
  · exact ⟨_, congrArg respondStep (onRunning_refuses hs), rfl⟩
  · exact congrArg respondStep (onRunning_done hrun hend)
  · have hnot : s.status ≠ .running := by rcases hs with hs | hs <;> rw [hs] <;> decide
    cases hi : startsAnew i with
    | false => exact .inl (exec_status_of_not_running hnot hi h)
    | true => exact .inr rfl

/-! ## The opcode at `I` (R226 to R228) -/

theorem lt_len_of_read {s : State} {a : Nat} {b : Byte} (h : Memory.read s.mem a = some b) : a < s.len := by
  rw [read_eq_buf] at h
  simpa using (List.getElem?_eq_some_iff.mp h).1

theorem buf_drop_of_read {s : State} {a : Nat} {b : Byte} (h : Memory.read s.mem a = some b) :
    s.buf.drop a = b :: s.buf.drop (a + 1) := by
  rw [read_eq_buf] at h
  obtain ⟨hlt, rfl⟩ := List.getElem?_eq_some_iff.mp h
  exact List.drop_eq_getElem_cons hlt

theorem exists_read {s : State} {a : Nat} (h : a < s.len) : ∃ b, Memory.read s.mem a = some b := by
  simp only [read_eq_buf, List.getElem?_eq_some_iff]
  exact ⟨_, by rwa [buf_length], rfl⟩

/-- The byte at `I` is an escape byte with no byte after it, or it begins an opcode. -/
theorem lone_escape_or_opcodeAt {s : State} (h : s.i < s.len) :
    Memory.read s.mem s.i = some 0xCB ∧ s.len ≤ s.i + 1 ∨
      ∃ pre op b0, OpcodeAt s pre op ∧ Memory.read s.mem s.i = some b0 := by
  obtain ⟨b0, hb0⟩ := exists_read h
  by_cases hcb : b0 = 0xCB
  · subst hcb
    rcases Nat.lt_or_ge (s.i + 1) s.len with hnext | hnext
    · obtain ⟨op, hop⟩ := exists_read hnext
      exact .inr ⟨true, op, _, ⟨nofun, fun _ => ⟨hb0, hop⟩⟩, hb0⟩
    · exact .inl ⟨hb0, hnext⟩
  · exact .inr ⟨false, b0, b0, ⟨fun _ => ⟨hb0, hcb⟩, nofun⟩, hb0⟩

/-- The opcode byte is in the buffer. -/
theorem opcodeAt_read {s : State} {pre : Bool} {op : Byte} (h : OpcodeAt s pre op) :
    Memory.read s.mem (s.i + pre.toNat) = some op := by
  cases pre with
  | false => exact (h.1 rfl).1
  | true => exact (h.2 rfl).2

/-- The step at an opcode: a hit or a miss of the table of that opcode (R226). -/
theorem disStep_opcode {s : State} {pre : Bool} {op b0 : Byte} (hrun : s.status = .running) (hop : OpcodeAt s pre op)
    (hb0 : Memory.read s.mem s.i = some b0) :
    disStep s = (entryOf s pre op).elim (missOpcode pre op b0 s) fun ent => hitOpcode pre op ent operandValue s := by
  have hin := (lt_len_of_read hb0).ne
  cases pre with
  | false =>
    obtain ⟨hread, hne⟩ := hop.1 rfl
    obtain rfl : op = b0 := Option.some.inj (hread.symm.trans hb0)
    rw [disStep_standard (buf_drop_of_read hread) hne, onRunning_act hrun hin, stepStandard]
    change _ = (opromStd s.par op).elim _ _
    cases opromStd s.par op <;> rfl
  | true =>
    obtain ⟨hread, hread'⟩ := hop.2 rfl
    obtain rfl : 0xCB = b0 := Option.some.inj (hread.symm.trans hb0)
    rw [read_eq_buf] at hread'
    rw [disStep_prefixed (buf_drop_of_read hread), onRunning_act hrun hin, stepPrefixed, memByte_ok _ _ _ _ hread']
    dsimp only
    change _ = (opromCb s.par op).elim _ _
    cases opromCb s.par op <;> rfl

theorem exec_disStep_entry {s : State} {pre : Bool} {op : Byte} {ent : OpEntry} (hrun : s.status = .running)
    (hop : OpcodeAt s pre op) (hent : entryOf s pre op = some ent) :
    exec .disStep s = respondStep (hitOpcode pre op ent operandValue s) := by
  obtain ⟨b0, hb0⟩ : ∃ b0, Memory.read s.mem s.i = some b0 :=
    exists_read (Nat.lt_of_le_of_lt (Nat.le_add_right ..) (lt_len_of_read (opcodeAt_read hop)))
  exact congrArg respondStep (by rw [disStep_opcode hrun hop hb0, hent, Option.elim_some])

/-- A lone escape byte fails the run (R229). -/
theorem disStep_lone_escape {s : State} (hrun : s.status = .running) (hread : Memory.read s.mem s.i = some 0xCB)
    (hlone : s.len ≤ s.i + 1) :
    disStep s = failRun ((boundsErr .index .prefixedOpcode (s.i + 1) s.len).inInstr s.i true) s := by
  rw [disStep_prefixed (buf_drop_of_read hread), onRunning_act hrun (lt_len_of_read hread).ne, stepPrefixed,
    memByte_err _ _ _ (by rwa [buf_length]), buf_length]

/-! ## Operand values (R88 to R90) -/

theorem operandValue_single (d : Byte) : operandValue [d] = d.setWidth 16 := by
  apply BitVec.eq_of_toNat_eq
  simp [operandValue, bigEndian]

theorem operandValue_pair (lo hi : Byte) : operandValue [lo, hi] = hi ++ lo := bigEndian_pair hi lo

theorem operandValue_leBytes (v : Half) : operandValue (leBytes v) = v :=
  (operandValue_pair _ _).trans (highByte_append_lowByte v)

theorem opBytes_eq_count (n : OperandCount) : opBytes n = count n := by cases n <;> rfl

/-- The operand bytes at an index, read and taken as one value (R88 to R90). -/
theorem operandValue_of_operandAt {s : State} {a : Nat} {n : OperandCount} {v : Half} (h : OperandAt s a n v) :
    operandValue (slice s.buf a (count n)) = v := by
  cases n with
  | zero => exact Eq.symm h
  | one =>
    obtain ⟨d, hd, rfl⟩ := h
    have hbytes : BytesAt s a [d] := fun | 0, _ => hd
    rw [← operandValue_single, ← slice_of_bytesAt hbytes]
    rfl
  | two =>
    obtain ⟨lo, hi, hlo, hhi, rfl⟩ := h
    rw [← operandValue_pair, ← slice_of_bytesAt (bytesAt_pair hlo hhi)]
    rfl

/-! ## A hit of the table (R226 to R229) -/

theorem entryRec_eq_instrRec (pre : Bool) (op : Byte) (ent : OpEntry) (v : Half) :
    entryRec pre op ent v = instrRec pre op ent v := by
  rw [entryRec, opBytes_eq_count]
  rfl

/-- The operand bytes that an entry declares, all inside the buffer, are read. -/
theorem readOperand_inside {s : State} {pos n : Nat} (h : pos + 1 + n ≤ s.len) :
    readOperand s.buf pos n = .ok (slice s.buf (pos + 1) n) [] := by
  rcases readOperand_cases s.buf pos n (by rw [buf_length]; omega) with ⟨-, hread⟩ | ⟨hout, -⟩
  · exact hread
  · rw [buf_length] at hout
    omega

section
variable {i : Instr} {s : State} {pre : Bool} {op : Byte} {ent : OpEntry} {value : List Byte → Half}

theorem hitOpcode_ok {bytes : List Byte} {d : List ErrRec}
    (h : readOperand s.buf (s.i + pre.toNat) (opBytes ent.nops) = .ok bytes d) :
    hitOpcode pre op ent value s = (emit (entryRec pre op ent (value bytes)) s, .ok .emitted []) := by
  rw [hitOpcode, h]

theorem hitOpcode_err {e : ErrRec} (h : readOperand s.buf (s.i + pre.toNat) (opBytes ent.nops) = .err e) :
    hitOpcode pre op ent value s = failRun (e.inInstr s.i pre) s := by
  rw [hitOpcode, h]

theorem hitOpcode_inside (hfit : s.i + pre.toNat + 1 + count ent.nops ≤ s.len) :
    hitOpcode pre op ent value s =
      (emit (instrRec pre op ent (value (slice s.buf (s.i + pre.toNat + 1) (count ent.nops)))) s, .ok .emitted []) := by
  rw [← entryRec_eq_instrRec]
  exact hitOpcode_ok (by rw [opBytes_eq_count, readOperand_inside hfit])

/-- An instruction that ends in a hit emits its record when all its operand bytes are inside the buffer. -/
theorem exec_emits (hi : exec i s = respondStep (hitOpcode pre op ent value s))
    (hfit : s.i + pre.toNat + 1 + count ent.nops ≤ s.len) :
    exec i s = .next (emitted s
      (instrRec pre op ent (value (slice s.buf (s.i + pre.toNat + 1) (count ent.nops))))) := by
  rw [hi, hitOpcode_inside hfit]
  rfl

theorem failsRun_of_operand_err {sub : BoundsSub} {index : Nat}
    (hi : exec i s = respondStep (hitOpcode pre op ent value s))
    (hread : readOperand s.buf (s.i + pre.toNat) (opBytes ent.nops) =
      .err (boundsErr sub .operand index s.buf.length)) :
    FailsRun i s (MissingRec s sub .operand index pre) := by
  rw [buf_length] at hread
  exact ⟨_, hi.trans (congrArg respondStep (hitOpcode_err hread)), ⟨rfl, rfl, rfl, rfl⟩, rfl, rfl⟩

/-- An instruction that ends in a hit fails the run when an operand byte is missing (R229). -/
theorem missingOperand_of_hit (hi : exec i s = respondStep (hitOpcode pre op ent value s)) :
    MissingOperand i s pre ent := by
  refine ⟨fun hn h => ?_, fun hn h => ?_, fun hn h h2 => ?_⟩ <;> refine failsRun_of_operand_err hi ?_ <;> rw [hn]
  · exact memRead_start _ _ 1 _ (by rwa [buf_length])
  · exact memRead_start _ _ 2 _ (by rwa [buf_length])
  · exact memRead_stop _ _ 2 _ (by rwa [buf_length]) (by rwa [buf_length])

theorem missOpcode_strict {b0 : Byte} (h : s.mode = .strict) :
    missOpcode pre op b0 s = failRun (unknownOpcodeErr pre op s) s := by
  rw [missOpcode, h]

theorem missOpcode_permissive {b0 : Byte} (h : s.mode = .permissive) :
    missOpcode pre op b0 s =
      ({ emit (sentinel s.par b0) s with dwarn := s.dwarn ++ [unknownOpcodeErr pre op s] }, .ok .emitted []) := by
  rw [missOpcode, h]

/-- An instruction that ends in a miss fails a strict run and emits the sentinel in a permissive one (R230, R231). -/
theorem exec_miss {b0 : Byte} (hi : exec i s = respondStep (missOpcode pre op b0 s)) :
    (s.mode = .strict → FailsRun i s (UnknownRec s pre op)) ∧
      (s.mode = .permissive → Substitutes i s b0 (UnknownRec s pre op)) := by
  have hrec : UnknownRec s pre op (unknownOpcodeErr pre op s) := ⟨rfl, rfl, rfl, rfl, rfl, rfl, rfl⟩
  exact ⟨fun hmode => ⟨_, hi.trans (congrArg respondStep (missOpcode_strict hmode)), hrec⟩,
    fun hmode => ⟨_, hi.trans (congrArg respondStep (missOpcode_permissive hmode)), hrec⟩⟩

end

/-! ## `DIS.STEP` -/

/-- Settles O39: a hit of the standard table, its operand bytes at `I + 1`. -/
theorem disStepStandardPath : Obligations.DisStepStandardPath := by
  unfold Obligations.DisStepStandardPath
  intro s op ent v hrun hread hne hent hfit hv
  have hop : OpcodeAt s false op := ⟨fun _ => ⟨hread, hne⟩, nofun⟩
  rw [← operandValue_of_operandAt hv]
  exact exec_emits (exec_disStep_entry hrun hop hent) hfit

/-- Settles O40: a hit of the prefixed table, its operand bytes at `I + 2`. -/
theorem disStepPrefixedPath : Obligations.DisStepPrefixedPath := by
  unfold Obligations.DisStepPrefixedPath
  intro s op ent v hrun hread hread' hent hfit hv
  have hop : OpcodeAt s true op := ⟨nofun, fun _ => ⟨hread, hread'⟩⟩
  rw [← operandValue_of_operandAt hv]
  exact exec_emits (exec_disStep_entry hrun hop hent) hfit

/-- Settles O41: the read of the second opcode byte fails, or that of the operand bytes. -/
theorem disStepInsufficientBytes : Obligations.DisStepInsufficientBytes := by
  unfold Obligations.DisStepInsufficientBytes
  refine ⟨fun s hrun hread hlone => ?_, fun s pre op ent hrun hop hent => ?_⟩
  · exact ⟨_, congrArg respondStep (disStep_lone_escape hrun hread hlone), ⟨rfl, rfl, rfl, rfl⟩, rfl, rfl⟩
  · exact missingOperand_of_hit (exec_disStep_entry hrun hop hent)

/-- Settles O42: the step at an opcode without an entry is a miss. -/
theorem disStepUnknownOpcode : Obligations.DisStepUnknownOpcode := by
  unfold Obligations.DisStepUnknownOpcode
  intro s pre op b0 hrun hop hent hb0
  exact exec_miss (congrArg respondStep (by rw [disStep_opcode hrun hop hb0, hent, Option.elim_none]))

/-! ## The classes of the target stream (R231, R236 to R238) -/

/-- `NOP` is a hit of its pinned entry (R236). -/
theorem exec_nop {s : State} (hrun : s.status = .running) (hin : s.i < s.len) :
    exec .nop s =
      respondStep (hitOpcode false 0x00 ⟨text "NOP", .zero, s.par.nopCycles, s.par.nopFlags⟩ (fun _ => 0) s) :=
  congrArg respondStep (onRunning_act hrun hin.ne)

/-- Settles O47: the pinned entry declares no operand bytes. -/
theorem nopEmits : Obligations.NopEmits := by
  unfold Obligations.NopEmits
  exact fun s hrun hin => exec_emits (exec_nop hrun hin) hin

/-- `JP a16` is a hit of its pinned entry, with the operand bytes of the instruction (R237). -/
theorem exec_jpA16 {a : Half} {s : State} (hrun : s.status = .running) (hin : s.i < s.len) :
    exec (.jpA16 a) s = respondStep (hitOpcode false 0xC3 ⟨text "JP a16", .two, s.par.jpCycles, s.par.jpFlags⟩
      (fun _ => operandValue (leBytes a)) s) :=
  congrArg respondStep (onRunning_act hrun hin.ne)

/-- Settles O48: the two operand bytes of the pinned entry are there, or missing at START or END. -/
theorem jpEmits : Obligations.JpEmits := by
  unfold Obligations.JpEmits
  intro a s hrun
  refine ⟨fun hfit => ?_, fun hlen => ?_, fun hlen => ?_⟩
  · have h := exec_emits (exec_jpA16 (a := a) hrun (by omega)) hfit
    rwa [operandValue_leBytes] at h
  · obtain ⟨-, hstart, -⟩ := missingOperand_of_hit (exec_jpA16 (a := a) hrun (by omega))
    exact hstart rfl hlen.le
  · obtain ⟨-, -, hstop⟩ := missingOperand_of_hit (exec_jpA16 (a := a) hrun (by omega))
    exact hstop rfl (by simp [hlen]) (by simp [hlen])

section
variable {o l h : Byte} {s : State}

theorem exec_prefixCb_lone (hrun : s.status = .running) (hlen : s.len = s.i + 1) :
    exec (.prefixCb o l h) s =
      respondStep (failRun ((boundsErr .index .prefixedOpcode (s.i + 1) s.len).inInstr s.i true) s) := by
  change execPrefixCb o l h s = _
  rw [execPrefixCb, onRunning_act hrun (by omega)]
  rw [memByte_err _ _ _ (by rw [buf_length, hlen]), buf_length]

theorem exec_prefixCb (hrun : s.status = .running) (hin : s.i + 2 ≤ s.len) :
    exec (.prefixCb o l h) s = respondStep (prefixedAt o [l, h] s) := by
  obtain ⟨b, hb⟩ := exists_read (s := s) (a := s.i + 1) (by omega)
  rw [read_eq_buf] at hb
  change execPrefixCb o l h s = _
  rw [execPrefixCb, onRunning_act hrun (by omega)]
  rw [memByte_ok _ _ _ _ hb]

theorem exec_prefixCb_miss (hrun : s.status = .running) (hin : s.i + 2 ≤ s.len) (hent : opromCb s.par o = none) :
    exec (.prefixCb o l h) s = respondStep (missOpcode true o 0xCB s) := by
  rw [exec_prefixCb hrun hin, prefixedAt, hent]

theorem exec_prefixCb_hit {ent : OpEntry} (hrun : s.status = .running) (hin : s.i + 2 ≤ s.len)
    (hent : opromCb s.par o = some ent) :
    exec (.prefixCb o l h) s =
      respondStep (hitOpcode true o ent (fun _ => operandValue ([l, h].take (opBytes ent.nops))) s) := by
  rw [exec_prefixCb hrun hin, prefixedAt, hent]

end

/-- Settles O49: the lone escape byte, the miss of the prefixed table, and the hit with the operand bytes its entry
declares. -/
theorem prefixCbEmits : Obligations.PrefixCbEmits := by
  unfold Obligations.PrefixCbEmits
  intro o l h s hrun
  refine ⟨fun hlen => ?_, fun hin hent => exec_miss (exec_prefixCb_miss hrun hin hent), fun ent hin hent => ?_⟩
  · exact ⟨_, exec_prefixCb_lone hrun hlen, ⟨rfl, rfl, rfl, rfl⟩, rfl, rfl⟩
  · have hhit := exec_prefixCb_hit (l := l) (h := h) hrun hin hent
    refine ⟨missingOperand_of_hit hhit, fun hfit => ?_⟩
    have hemit := exec_emits hhit hfit
    refine ⟨fun hn => ?_, fun hn => ?_, fun hn => ?_⟩ <;> rw [hn] at hemit
    · exact hemit
    · rwa [← operandValue_single]
    · rwa [← operandValue_pair]

/-- Settles O50: the class is a miss of the standard table. -/
theorem unknownEmits : Obligations.UnknownEmits := by
  unfold Obligations.UnknownEmits
  exact fun x s hrun hin => exec_miss (congrArg respondStep (onRunning_act hrun hin.ne))

end Sys2Proof.Proofs

/-! PROOF. A step reads no byte outside `I` to `I + 3` (R233): with another buffer that agrees there it does the
same. -/

namespace Sys2Proof.Proofs

open Sys2Proof.Machine Sys2Proof.Spec

/-! ## Reads of bytes that agree -/

section
variable {buf buf' : List Byte} {a n : Nat} {f : Field}

theorem slice_congr (h : ∀ k, k < n → buf'[a + k]? = buf[a + k]?) : slice buf' a n = slice buf a n := by
  apply List.ext_getElem?
  intro k
  rcases Nat.lt_or_ge k n with hk | hk
  · rw [slice_getElem? _ _ _ _ hk, slice_getElem? _ _ _ _ hk, h k hk]
  · rw [slice, slice, List.getElem?_take_eq_none hk, List.getElem?_take_eq_none hk]

/-- A read of a range depends on the length of the buffer and on the bytes of the range (R52). -/
theorem memRead_congr (hlen : buf'.length = buf.length) (h : ∀ k, k < n → buf'[a + k]? = buf[a + k]?) :
    memRead buf' a n f = memRead buf a n f := by
  rw [memRead, memRead, hlen, slice_congr h]

theorem readOperand_congr (hlen : buf'.length = buf.length) (h : ∀ k, k < n → buf'[a + 1 + k]? = buf[a + 1 + k]?) :
    readOperand buf' a n = readOperand buf a n := by
  rw [readOperand, readOperand, memRead_congr hlen h]

end

/-! ## The step with another buffer -/

/-- The state with the buffer `m` in place of its own. -/
def withBuffer (m : Memory) (s : State) : State := { s with mem := m }

/-- `m` has the length of the buffer and its bytes at `I` to `I + 3`. -/
def AgreesAhead (m : Memory) (s : State) : Prop :=
  m.length = s.mem.length ∧ ∀ k, k ≤ 3 → Memory.read m (s.i + k) = Memory.read s.mem (s.i + k)

section
variable {m : Memory} {s : State} {pre : Bool} {op b0 : Byte}

theorem withBuffer_len (h : AgreesAhead m s) : (withBuffer m s).len = s.len := h.1

theorem opcodeAt_withBuffer (h : AgreesAhead m s) (hop : OpcodeAt s pre op) : OpcodeAt (withBuffer m s) pre op := by
  refine ⟨fun hp => ?_, fun hp => ?_⟩
  · obtain ⟨hread, hne⟩ := hop.1 hp
    exact ⟨(h.2 0 (by decide)).trans hread, hne⟩
  · obtain ⟨hread, hread'⟩ := hop.2 hp
    exact ⟨(h.2 0 (by decide)).trans hread, (h.2 1 (by decide)).trans hread'⟩

theorem missOpcode_withBuffer (h : AgreesAhead m s) :
    missOpcode pre op b0 (withBuffer m s) = (missOpcode pre op b0 s).map (withBuffer m) id := by
  have herr : unknownOpcodeErr pre op (withBuffer m s) = unknownOpcodeErr pre op s := by
    rw [unknownOpcodeErr, withBuffer_len h]
    rfl
  cases hmode : s.mode with
  | strict =>
    rw [missOpcode_strict hmode, missOpcode_strict (s := withBuffer m s) hmode, herr]
    rfl
  | permissive =>
    rw [missOpcode_permissive hmode, missOpcode_permissive (s := withBuffer m s) hmode, herr]
    rfl

/-- The operand bytes of a hit stand at `I + 1` to `I + 3`. -/
theorem hitOpcode_withBuffer {ent : OpEntry} {value : List Byte → Half} (h : AgreesAhead m s) :
    hitOpcode pre op ent value (withBuffer m s) = (hitOpcode pre op ent value s).map (withBuffer m) id := by
  have hread : readOperand (withBuffer m s).buf (s.i + pre.toNat) (opBytes ent.nops) =
      readOperand s.buf (s.i + pre.toNat) (opBytes ent.nops) := by
    refine readOperand_congr (by rw [buf_length, buf_length, withBuffer_len h]) fun k hk => ?_
    have hfar : pre.toNat + 1 + k ≤ 3 := by
      have := opBytes_le ent.nops
      have := pre.toNat_le
      omega
    rw [← read_eq_buf, ← read_eq_buf, Nat.add_assoc, Nat.add_assoc, ← Nat.add_assoc pre.toNat]
    exact h.2 _ hfar
  cases hs : readOperand s.buf (s.i + pre.toNat) (opBytes ent.nops) with
  | err e =>
    rw [hitOpcode_err hs, hitOpcode_err (s := withBuffer m s) (hread.trans hs)]
    rfl
  | ok bytes d =>
    rw [hitOpcode_ok hs, hitOpcode_ok (s := withBuffer m s) (hread.trans hs)]
    rfl

/-- Beyond the end of the buffer there is no byte to classify (log entry 16). -/
theorem disStep_beyond (hrun : s.status = .running) (hout : s.len < s.i) :
    disStep s = failRun ((boundsErr .index .opcode s.i s.len).inInstr s.i false) s := by
  rw [disStep, onRunning_act hrun hout.ne', memByte_err _ _ _ (by rw [buf_length]; exact hout.le), buf_length]

theorem disStep_withBuffer (h : AgreesAhead m s) :
    disStep (withBuffer m s) = (disStep s).map (withBuffer m) id := by
  have hlen := withBuffer_len h
  by_cases hrun : s.status = .running
  · have hrun' : (withBuffer m s).status = .running := hrun
    rcases Nat.lt_trichotomy s.i s.len with hin | hend | hout
    · rcases lone_escape_or_opcodeAt hin with ⟨hread, hlone⟩ | ⟨pre, op, b0, hop, hb0⟩
      · rw [disStep_lone_escape hrun hread hlone,
          disStep_lone_escape hrun' ((h.2 0 (by decide)).trans hread) (hlen.trans_le hlone), hlen]
        rfl
      · rw [disStep_opcode hrun hop hb0,
          disStep_opcode hrun' (opcodeAt_withBuffer h hop) ((h.2 0 (by decide)).trans hb0)]
        change (entryOf s pre op).elim _ _ = _
        cases entryOf s pre op with
        | none => exact missOpcode_withBuffer h
        | some ent => exact hitOpcode_withBuffer h
    · rw [disStep, disStep, onRunning_done hrun hend, onRunning_done hrun' (hend.trans hlen.symm)]
      rfl
    · rw [disStep_beyond hrun hout, disStep_beyond hrun' (hlen.trans_lt hout), hlen]
      rfl
  · rw [disStep, disStep, onRunning_refuses hrun, onRunning_refuses (s := withBuffer m s) hrun, hlen]
    rfl

end

/-- Settles O43: the response is that of the step, which the other buffer does not change. -/
theorem disStepHasNoLookAhead : Obligations.DisStepHasNoLookAhead := by
  unfold Obligations.DisStepHasNoLookAhead
  intro s t m hlen hahead h
  cases h
  change respondStep (disStep (withBuffer m s)) = _
  rw [disStep_withBuffer ⟨hlen, hahead⟩]
  rfl

end Sys2Proof.Proofs

/-! PROOF. Whole runs (R232 to R236): `DIS.RUN` is `DIS.START` and steps that end the run, its records tile the buffer,
and zero bytes are `NOP`s. Each pass of the loop fails the run, ends it, or classifies the bytes at `I`. -/

namespace Sys2Proof.Proofs

open Sys2Proof.Machine Sys2Proof.Spec

/-! ## One step of a run that is at most at its end (R226, R232) -/

/-- A record of the right shape for the bytes at `I`: it lies inside the buffer, and its opcode is the byte at its
offset, or after the escape byte (R231, R233). -/
structure Classifies (s : State) (r : InstrRec) : Prop where
  shape : recordOk r = true
  fits : s.i + r.length ≤ s.len
  opcode : Memory.read s.mem (s.i + r.prefixed.toNat) = some r.opcode

theorem length_pos_of_recordOk {r : InstrRec} (h : recordOk r = true) : 1 ≤ r.length := by
  simp only [recordOk, Bool.and_eq_true, beq_iff_eq] at h
  omega

/-- The ways a step of a run in progress can end: the run fails, or it is over, or a record is emitted, with the
warnings `w`. -/
inductive Pass (s : State) : State × Reply StepEnd → Prop
  | fail (e : ErrRec) : Pass s (failRun e s)
  | finish (hend : s.i = s.len) : Pass s ({ s with status := .done }, .ok .done [])
  | emit (r : InstrRec) (w : List ErrRec) (hr : Classifies s r) :
      Pass s ({ Machine.emit r s with dwarn := s.dwarn ++ w }, .ok .emitted [])

section
variable {s : State} {pre : Bool} {op b0 : Byte}

theorem Pass.emit_only {r : InstrRec} (hr : Classifies s r) : Pass s (Machine.emit r s, .ok .emitted []) := by
  have h := Pass.emit r [] hr
  rwa [List.append_nil] at h

theorem missOpcode_pass (hb0 : Memory.read s.mem s.i = some b0) : Pass s (missOpcode pre op b0 s) := by
  cases hmode : s.mode with
  | strict =>
    rw [missOpcode_strict hmode]
    exact .fail _
  | permissive =>
    rw [missOpcode_permissive hmode]
    exact .emit _ _ ⟨sentinel_ok _ _, lt_len_of_read hb0, hb0⟩

theorem hitOpcode_pass {ent : OpEntry} (hop : OpcodeAt s pre op) :
    Pass s (hitOpcode pre op ent operandValue s) := by
  have hread := opcodeAt_read hop
  rcases readOperand_cases s.buf (s.i + pre.toNat) (opBytes ent.nops) (by rw [buf_length]; exact lt_len_of_read hread)
    with ⟨hfit, hs⟩ | ⟨-, e, hs⟩
  · rw [hitOpcode_ok hs]
    refine .emit_only ⟨entryRec_ok _ _ _ _ fun h0 => ?_, ?_, hread⟩
    · rw [h0]
      rfl
    · rw [buf_length] at hfit
      simp only [entryRec]
      omega
  · rw [hitOpcode_err hs]
    exact .fail _

theorem disStep_pass (hrun : s.status = .running) (hin : s.i ≤ s.len) : Pass s (disStep s) := by
  rcases hin.lt_or_eq with hlt | hend
  · rcases lone_escape_or_opcodeAt hlt with ⟨hread, hlone⟩ | ⟨pre, op, b0, hop, hb0⟩
    · rw [disStep_lone_escape hrun hread hlone]
      exact .fail _
    · rw [disStep_opcode hrun hop hb0]
      cases entryOf s pre op with
      | none => exact missOpcode_pass hb0
      | some ent => exact hitOpcode_pass hop
  · rw [disStep, onRunning_done hrun hend]
    exact .finish hend

end

/-! ## `DIS.RUN` is `DIS.START` and steps (R234) -/

/-- The last response does not matter to a step, which writes its own. -/
theorem exec_disStep_resp {s s' : State} {r : Reply StepEnd} (o : Option Response) (h : disStep s = (s', r)) :
    exec .disStep { s with resp := o } = .next { s' with resp := some (r.map Value.stepEnd) } := by
  change respondStep (disStep { s with resp := o }) = _
  rw [disStep_resp, h]
  rfl

/-- The run is over in `s` with the result `r` (R234). -/
def Ended (s : State) (r : Reply (List InstrPos)) : Prop :=
  (s.status = .done ∧ r = .ok s.out s.dwarn) ∨ ∃ e, s.status = .error ∧ s.err = some e ∧ r = .err e

/-- Every emitting step advances `I`, so a loop of more passes than there are bytes left ends (R232). The last response
is free, because a step writes it and a pass of the loop does not. -/
theorem runLoop_ends {n : Nat} {s : State} (o : Option Response) (hrun : s.status = .running) (hin : s.i ≤ s.len)
    (hn : s.len < s.i + n) :
    ∃ k u r o', k ≤ n ∧ runLoop n s = some (u, r) ∧ Steps k { s with resp := o } { u with resp := o' } ∧
      Ended u r := by
  induction n generalizing s o with
  | zero => omega
  | succ n ih =>
    have hpass := disStep_pass hrun hin
    unfold runLoop
    generalize hd : disStep s = res at hpass
    cases hpass with
    | fail e =>
      exact ⟨1, _, _, _, by omega, rfl, ⟨hrun, _, exec_disStep_resp o hd, rfl⟩, .inr ⟨e, rfl, rfl, rfl⟩⟩
    | finish hend =>
      exact ⟨1, _, _, _, by omega, rfl, ⟨hrun, _, exec_disStep_resp o hd, rfl⟩, .inl ⟨rfl, rfl⟩⟩
    | emit rec w hr =>
      have hpos := length_pos_of_recordOk hr.shape
      obtain ⟨k, u, r, o', hk, hloop, hsteps, hended⟩ := ih (some (.ok (.stepEnd .emitted) []))
        (s := { emit rec s with dwarn := s.dwarn ++ w }) hrun hr.fits
        (show s.len < s.i + rec.length + n by omega)
      exact ⟨k + 1, u, r, o', by omega, hloop, ⟨hrun, _, exec_disStep_resp o hd, hsteps⟩, hended⟩

/-- Settles O44: the loop of `DIS.RUN` ends within its bound, in the state and with the result of the steps. -/
theorem disRunIsStartAndSteps : Obligations.DisRunIsStartAndSteps := by
  unfold Obligations.DisRunIsStartAndSteps
  intro m s
  obtain ⟨k, u, r, o, hk, hloop, hsteps, hended⟩ :=
    runLoop_ends (n := s.len + 1) (s := startRun m s) s.resp rfl (Nat.zero_le _) (show s.len < 0 + (s.len + 1) by omega)
  have hexec : exec (.disRun m) s = respond (r.map Value.listing) u := by
    change execDisRun m s = _
    rw [execDisRun, hloop]
  refine ⟨k, { u with resp := o }, hk, hsteps, ?_⟩
  rcases hended with ⟨hdone, rfl⟩ | ⟨e, herror, herr, rfl⟩
  · exact .inl ⟨hdone, hexec⟩
  · exact .inr ⟨e, herror, herr, hexec⟩

/-! ## The records tile the buffer (R233) -/

/-- What every step of a run keeps: the records tile the buffer up to `I`, each is one of its place, and a run that is
over has reached the end. -/
structure Classified (m : Memory) (s : State) : Prop where
  buffer : s.mem = m
  inside : s.i ≤ m.length
  ended : s.status = .done → s.i = m.length
  tiling : tiles 0 s.out s.i = true
  records : ∀ r ∈ s.out, recordOk r.instr = true ∧ r.offset + r.instr.length ≤ m.length ∧
    Memory.read m (r.offset + r.instr.prefixed.toNat) = some r.instr.opcode

theorem Pass.classified {m : Memory} {s : State} {res : State × Reply StepEnd} (h : Pass s res)
    (hrun : s.status = .running) (hs : Classified m s) : Classified m res.1 := by
  obtain ⟨rfl, hin, -, htiles, hrecs⟩ := hs
  cases h with
  | fail e => exact ⟨rfl, hin, nofun, htiles, hrecs⟩
  | finish hend => exact ⟨rfl, hin, fun _ => hend, htiles, hrecs⟩
  | emit r w hr =>
    refine ⟨rfl, hr.fits, fun hdone => ?_, tiles_snoc htiles r, ?_⟩
    · cases hrun.symm.trans hdone
    · exact List.forall_mem_append.mpr ⟨hrecs, List.forall_mem_singleton.mpr ⟨hr.shape, hr.fits, hr.opcode⟩⟩

theorem exec_disStep_classified {m : Memory} {s t : State} (hrun : s.status = .running) (hs : Classified m s)
    (h : exec .disStep s = .next t) : Classified m t := by
  cases h
  have hin : s.i ≤ s.len := hs.inside.trans_eq (congrArg List.length hs.buffer.symm)
  obtain ⟨hmem, hinside, hended, htiles, hrecs⟩ := (disStep_pass hrun hin).classified hrun hs
  exact ⟨hmem, hinside, hended, htiles, hrecs⟩

theorem steps_classified {m : Memory} {k : Nat} {s t : State} (h : Steps k s t) (hs : Classified m s) :
    Classified m t := by
  induction k generalizing s with
  | zero => exact h ▸ hs
  | succ k ih =>
    obtain ⟨hrun, u, hstep, hrest⟩ := h
    exact ih hrest (exec_disStep_classified hrun hs hstep)

theorem sum_length_of_tiles {a e : Nat} {l : List InstrPos} (h : tiles a l e = true) :
    a + (l.map fun r => r.instr.length).sum = e := by
  induction l generalizing a with
  | nil => simpa [tiles] using h
  | cons x l ih =>
    simp only [tiles, Bool.and_eq_true] at h
    rw [List.map_cons, List.sum_cons, ← Nat.add_assoc, ih h.2]

/-- Settles O45: the steps of a run keep `Classified`, and a run that is DONE has `I` at the end. -/
theorem disRunTilesTheBuffer : Obligations.DisRunTilesTheBuffer := by
  unfold Obligations.DisRunTilesTheBuffer
  intro m s t l d h hresp
  obtain ⟨k, u, -, hsteps, ⟨hdone, hu⟩ | ⟨e, -, -, hu⟩⟩ := disRunIsStartAndSteps m s <;>
    cases h.symm.trans hu <;> cases hresp
  have hstarted : Classified s.mem (started m s) := ⟨rfl, Nat.zero_le _, nofun, rfl, nofun⟩
  obtain ⟨-, -, hended, htiles, hrecs⟩ := steps_classified hsteps hstarted
  rw [hended hdone] at htiles
  exact ⟨htiles, (Nat.zero_add _).symm.trans (sum_length_of_tiles htiles), hrecs⟩

/-! ## Zero bytes (R236) -/

/-- The record of a `NOP` at the index `a`. -/
def nopAt (p : Params) (a : Nat) : InstrPos :=
  ⟨a, ⟨0x00, false, false, text "NOP", 1, 0, 0, p.nopCycles, p.nopFlags &&& 0xF0⟩⟩

theorem disStep_zero {s : State} (hrun : s.status = .running) (h : Memory.read s.mem s.i = some 0) :
    disStep s = (emit (nopAt s.par s.i).instr s, .ok .emitted []) :=
  (disStep_opcode (pre := false) (op := 0) hrun ⟨fun _ => ⟨h, by decide⟩, nofun⟩ h).trans
    (hitOpcode_inside (ent := ⟨text "NOP", .zero, _, _⟩) (lt_len_of_read h))

/-- The loop over `n` zero bytes up to the end of the buffer. -/
theorem runLoop_zeros {n : Nat} {s : State} (hrun : s.status = .running) (hlen : s.i + n = s.len)
    (hzero : ∀ a, a < s.len → Memory.read s.mem a = some 0) :
    runLoop (n + 1) s =
      some ({ s with i := s.len, status := .done, out := s.out ++ (List.range' s.i n).map (nopAt s.par) },
        .ok (s.out ++ (List.range' s.i n).map (nopAt s.par)) s.dwarn) := by
  induction n generalizing s with
  | zero =>
    have hend : s.i = s.len := hlen
    rw [runLoop, disStep, onRunning_done hrun hend, List.range'_zero, List.map_nil, List.append_nil, ← hend]
  | succ n ih =>
    rw [runLoop, disStep_zero hrun (hzero _ (by omega))]
    have hnext := ih (s := emit (nopAt s.par s.i).instr s) hrun (by simp only [emit_i, emit_len, nopAt]; omega) hzero
    dsimp only
    rw [hnext, emit_out, List.append_assoc, List.range'_succ, List.map_cons]
    rfl

/-- Settles O46: the run over a buffer of zero bytes from its start. -/
theorem zeroBytesAreNops : Obligations.ZeroBytesAreNops := by
  unfold Obligations.ZeroBytesAreNops
  intro m s hzero
  refine ⟨_, rfl, ?_⟩
  change execDisRun m s = _
  rw [execDisRun, runLoop_zeros (n := s.len) (s := startRun m s) rfl (Nat.zero_add _) hzero, List.range_eq_range']
  rfl

end Sys2Proof.Proofs

/-! PROOF. Entry-point deduplication (R239 to R242): what an insert adds, the order in which the keys are read out, and
that inserts commute. -/

namespace Sys2Proof.Proofs

open Sys2Proof.Machine Sys2Proof.Spec

/-! ## `EPD.INSERT` (R240) -/

theorem exec_epdInsert_err {s : State} {e : ErrRec} (h : hdrEntry s.buf = .err e) : Replies .epdInsert s (.err e) := by
  change execEpdInsert s = _
  rw [execEpdInsert, h]
  rfl

theorem exec_epdInsert_ok {s : State} {k : List Byte} {d : List ErrRec} (h : hdrEntry s.buf = .ok k d) :
    exec .epdInsert s = .next { s with
      keys := insertKey k s.keys, resp := some (.ok (.bit (!s.keys.contains k)) []) } := by
  change execEpdInsert s = _
  rw [execEpdInsert, h]
  rfl

/-- Settles O51: the key is the read of the entry point, and `insertKey` adds it. -/
theorem epdInsertAddsTheEntryPoint : Obligations.EpdInsertAddsTheEntryPoint := by
  unfold Obligations.EpdInsertAddsTheEntryPoint
  refine fun s => ⟨fun hin => ?_, fun hout => ?_, fun hstart hstop => ?_⟩
  · have hbuf : 0x0100 + 4 ≤ s.buf.length := by rwa [buf_length]
    have hentry : hdrEntry s.buf = .ok (slice s.buf 0x0100 4) [] := memRead_ok _ _ _ _ (by omega) hbuf
    exact ⟨_, _, _, slice_length _ _ _ hbuf, bytesAt_slice hin, exec_epdInsert_ok hentry, by simp,
      fun x => mem_insertKey _ x _⟩
  · rw [← buf_length] at hout
    exact ⟨_, exec_epdInsert_err (memRead_start _ _ 4 _ hout), rfl, rfl, rfl, by rw [buf_length]; rfl⟩
  · rw [← buf_length] at hstart hstop
    exact ⟨_, exec_epdInsert_err (memRead_stop _ _ 4 _ hstart hstop), rfl, rfl, rfl, by rw [buf_length]; rfl⟩

/-! ## `EPD.CLEAR` and `EPD.SORTED` (R239, R241) -/

/-- Between keys of one length the model's order is that of R241. -/
theorem keyBefore_of_keyLt {a b : List Byte} (hlen : a.length = b.length) (h : keyLt a b = true) : KeyBefore a b := by
  induction a generalizing b with
  | nil =>
    cases b with
    | nil => cases h
    | cons => cases hlen
  | cons x a ih =>
    cases b with
    | nil => cases h
    | cons y b =>
      rw [keyLt] at h
      split at h
      · next hxy =>
        subst hxy
        obtain ⟨k, x', y', hsame, hx', hy', hlt⟩ := ih (Nat.succ.inj hlen) h
        refine ⟨k + 1, x', y', fun j hj => ?_, hx', hy', hlt⟩
        cases j with
        | zero => rfl
        | succ j => exact hsame j (Nat.lt_of_succ_lt_succ hj)
      · exact ⟨0, x, y, nofun, rfl, rfl, by simpa [BitVec.lt_def] using h⟩

/-- Settles O52: sorting gives an ascending list of the same keys. -/
theorem epdClearAndSorted : Obligations.EpdClearAndSorted := by
  unfold Obligations.EpdClearAndSorted
  refine ⟨fun s => rfl, fun s hkeys => ?_⟩
  obtain ⟨hsorted, hmem⟩ := sortKeys_spec s.keys
  refine ⟨sortKeys s.keys, rfl, hsorted.imp_of_mem fun ha hb => keyBefore_of_keyLt ?_, hmem⟩
  rw [hkeys _ ((hmem _).mp ha), hkeys _ ((hmem _).mp hb)]

/-! ## Inserts commute (R242) -/

theorem keyLt_irrefl (a : List Byte) : ¬ keyLt a a = true := by
  induction a with
  | nil => simp [keyLt]
  | cons x a ih => simpa [keyLt] using ih

theorem keyLt_asymm {a b : List Byte} (h : keyLt a b = true) : ¬ keyLt b a = true :=
  fun h2 => keyLt_irrefl a (keyLt_trans _ _ _ h h2)

theorem keyLt_trichotomy (a b : List Byte) : keyLt a b = true ∨ a = b ∨ keyLt b a = true := by
  by_cases heq : a = b
  · exact .inr (.inl heq)
  · by_cases hlt : keyLt a b = true
    · exact .inl hlt
    · exact .inr (.inr (keyLt_total _ _ heq hlt))

section
variable {k x : List Byte} {l : List (List Byte)}

theorem insertKey_cons_self : insertKey k (k :: l) = k :: l := if_pos rfl

theorem insertKey_cons_of_lt (h : keyLt k x = true) : insertKey k (x :: l) = k :: x :: l := by
  have hne : k ≠ x := fun heq => keyLt_irrefl k (by rwa [← heq] at h)
  rw [insertKey, if_neg hne, if_pos h]

theorem insertKey_cons_of_gt (h : keyLt x k = true) : insertKey k (x :: l) = x :: insertKey k l := by
  have hne : k ≠ x := fun heq => keyLt_irrefl k (by rwa [← heq] at h)
  rw [insertKey, if_neg hne, if_neg (keyLt_asymm h)]

end

/-- Of two keys the lesser one goes first: past a head below both of them the insertions go on in the tail, and at any
other head the lesser key is in its place. -/
theorem insertKey_comm_of_lt {a b : List Byte} (hab : keyLt a b = true) (l : List (List Byte)) :
    insertKey a (insertKey b l) = insertKey b (insertKey a l) := by
  induction l with
  | nil => exact (insertKey_cons_of_lt (l := []) hab).trans (insertKey_cons_of_gt (l := []) hab).symm
  | cons x l ih =>
    rcases keyLt_trichotomy a x with hax | rfl | hxa
    · rw [insertKey_cons_of_lt hax, insertKey_cons_of_gt hab]
      rcases keyLt_trichotomy b x with hbx | rfl | hxb
      · rw [insertKey_cons_of_lt hbx, insertKey_cons_of_lt hab]
      · rw [insertKey_cons_self, insertKey_cons_of_lt hab]
      · rw [insertKey_cons_of_gt hxb, insertKey_cons_of_lt hax]
    · rw [insertKey_cons_self, insertKey_cons_of_gt hab, insertKey_cons_self]
    · have hxb := keyLt_trans _ _ _ hxa hab
      rw [insertKey_cons_of_gt hxb, insertKey_cons_of_gt hxa, insertKey_cons_of_gt hxa, insertKey_cons_of_gt hxb, ih]

theorem insertKey_comm (a b : List Byte) (l : List (List Byte)) :
    insertKey a (insertKey b l) = insertKey b (insertKey a l) := by
  rcases keyLt_trichotomy a b with hab | rfl | hba
  · exact insertKey_comm_of_lt hab l
  · rfl
  · exact (insertKey_comm_of_lt hba l).symm

/-- The keys with the entry point of the image in the buffer `m`, if it has one (R240). -/
def addEntryPoint (m : Memory) (keys : List (List Byte)) : List (List Byte) :=
  match hdrEntry (m.map Prod.snd) with
  | .ok k _ => insertKey k keys
  | .err _ => keys

theorem afterInsert_eq (s : State) (m : Memory) : afterInsert s m = { s with keys := addEntryPoint m s.keys } := by
  have hbuf : State.buf { s with mem := m } = m.map Prod.snd := rfl
  unfold afterInsert addEntryPoint
  cases h : hdrEntry (m.map Prod.snd) with
  | ok k d => rw [exec_epdInsert_ok (hbuf ▸ h)]
  | err e => rw [exec_epdInsert_err (hbuf ▸ h)]

theorem addEntryPoint_comm (m m' : Memory) (keys : List (List Byte)) :
    addEntryPoint m (addEntryPoint m' keys) = addEntryPoint m' (addEntryPoint m keys) := by
  unfold addEntryPoint
  cases hdrEntry (m.map Prod.snd) with
  | err => rfl
  | ok k =>
    cases hdrEntry (m'.map Prod.snd) with
    | err => rfl
    | ok k' => exact insertKey_comm k k' keys

/-- Settles O53: two inserts commute in every state, so any permutation of them ends in the same one. -/
theorem insertOrderDoesNotMatter : Obligations.InsertOrderDoesNotMatter := by
  unfold Obligations.InsertOrderDoesNotMatter
  intro s l l' _ hperm
  refine hperm.foldl_eq' (fun m _ m' _ t => ?_) s
  simp only [afterInsert_eq, addEntryPoint_comm m m']

end Sys2Proof.Proofs

/-! PROOF. The block never stops (R292): every instruction answers with a next state, so a step does whenever the frame
it takes holds a request or an undefined code, and the frames it leaves waiting are among those of before. -/

namespace Sys2Proof.Proofs

open Sys2Proof.Machine Sys2Proof.Spec

/-! ## Every instruction answers -/

theorem execBufLoad_next (image : List Byte) (name : Text) (s : State) : ∃ t, execBufLoad image name s = .next t := by
  by_cases hlen : image.length ≤ 65536
  · exact ⟨_, exec_bufLoad name s hlen⟩
  · exact ⟨_, bufLoad_too_long name s (Nat.lt_of_not_le hlen)⟩

theorem execBufPutr_next (range : RangeArg) (data : List Byte) (s : State) :
    ∃ t, execBufPutr range data s = .next t := by
  cases hrw : s.par.bufRw with
  | false => exact ⟨_, bufPutr_not_writable range data hrw⟩
  | true =>
    cases hrange : checkRange s.len range with
    | err e => exact ⟨_, bufPutr_range_error hrw hrange⟩
    | ok v d =>
      rw [execBufPutr_inside hrw hrange]
      split
      · exact ⟨_, rfl⟩
      · exact ⟨_, rfl⟩

theorem execEpdInsert_next (s : State) : ∃ t, execEpdInsert s = .next t := by
  cases hentry : hdrEntry s.buf with
  | ok k d => exact ⟨_, exec_epdInsert_ok hentry⟩
  | err e => exact ⟨_, exec_epdInsert_err hentry⟩

/-- The one fault of the model cannot happen: the loop of `DIS.RUN` ends within its bound (R232, R234). -/
theorem execDisRun_next (m : Mode) (s : State) : ∃ t, execDisRun m s = .next t := by
  obtain ⟨k, u, -, -, ⟨-, hdone⟩ | ⟨e, -, -, herror⟩⟩ := disRunIsStartAndSteps m s
  · exact ⟨_, hdone⟩
  · exact ⟨_, herror⟩

/-- No instruction faults or refuses, in any state (R292). Those not named here end in `respond` whatever their result
is. -/
theorem exec_next (i : Instr) (s : State) : ∃ t, exec i s = .next t := by
  cases i with
  | bufLoad image name => exact execBufLoad_next image name s
  | bufPutr range data => exact execBufPutr_next range data s
  | epdInsert => exact execEpdInsert_next s
  | disRun m => exact execDisRun_next m s
  | _ => exact ⟨_, rfl⟩

/-! ## A step with answerable frames waiting -/

theorem answerable_iff {frame : List Byte} :
    answerable frame = true ↔
      (∃ i, decodeFrame frame = .ok i) ∨ ∃ op, decodeFrame frame = .error (.undefinedOp op) := by
  unfold answerable
  cases decodeFrame frame with
  | ok i => simp
  | error e => cases e <;> simp

/-- The step answers with a next state and takes at most the oldest frame from the queue (R63, R295). -/
theorem step_next_of_answerable {s : State} (h : ∀ f ∈ s.inbox, answerable f = true) :
    ∃ t, step s = .next t ∧ t.inbox = s.inbox.tail := by
  cases hbox : s.inbox with
  | nil => exact ⟨s, stepServesTheOldestRequest.1 s hbox, hbox⟩
  | cons frame rest =>
    rcases answerable_iff.mp (h frame (hbox ▸ List.mem_cons_self)) with ⟨i, hi⟩ | ⟨op, hop⟩
    · obtain ⟨t, ht⟩ := exec_next i { s with inbox := rest }
      exact ⟨t, (stepServesTheOldestRequest.2 s frame rest i hbox hi).trans ht, (parametersNeverChange.1 i _ t ht).2⟩
    · rw [step, fetch_of_undefinedOp hbox hop]
      exact ⟨_, rfl, rfl⟩

/-- Settles O10, by induction on the number of steps: each answers, and the frames that wait after it waited before. -/
theorem theBlockNeverStops : Obligations.TheBlockNeverStops := by
  unfold Obligations.TheBlockNeverStops
  intro n
  induction n with
  | zero => exact fun _ _ => trivial
  | succ n ih =>
    intro s h
    obtain ⟨t, hstep, hinbox⟩ := step_next_of_answerable h
    refine ⟨t, hstep, ih t fun f hf => h f ?_⟩
    rw [hinbox] at hf
    exact List.mem_of_mem_tail hf

end Sys2Proof.Proofs

/-! PROOF. The reset state and the requests before the first load (R310, R314): every read of an empty buffer fails its
first test, and what does not read the buffer answers with nothing. -/

namespace Sys2Proof.Proofs

open Sys2Proof.Machine Sys2Proof.Spec

/-! ## Reset (R310) -/

/-- Settles O7: each item is that of `State.resetWith`, and `State.reset` is it under the reference parameters. -/
theorem resetIsEmpty : Obligations.ResetIsEmpty := by
  unfold Obligations.ResetIsEmpty
  exact ⟨⟨referenceParams, rfl⟩, fun p => ⟨resetWith_mem p, resetWith_len p, resetWith_name p, resetWith_i p,
    resetWith_mode p, resetWith_status p, resetWith_err p, resetWith_out p, resetWith_dwarn p, resetWith_keys p⟩⟩

/-- An empty buffer is canonical, an IDLE block agrees with its empty run, and there is no record or key to check. -/
theorem resetWith_inv (p : Params) : (State.resetWith p).Inv :=
  ⟨⟨rfl, Nat.zero_le _⟩, by simp [runOk], rfl, by simp, .nil, by simp⟩

/-- Settles O8: `State.reset` is one of the reset states. -/
theorem resetMeetsTheInvariant : Obligations.ResetMeetsTheInvariant := by
  unfold Obligations.ResetMeetsTheInvariant
  exact ⟨resetWith_inv referenceParams, resetWith_inv⟩

/-! ## The fields of the header (R140) -/

/-- An operation that finds its first index beyond the buffer answers a BoundsError in an empty one. -/
theorem fails_isBounds {i : Instr} {s : State} {sub : BoundsSub} {f : Field} {a : Nat} (hlen : s.len = 0)
    (h : s.len ≤ a → Fails i s (BoundsRec sub f a s.len)) : Fails i s IsBounds := by
  obtain ⟨e, he, hkind, -⟩ := h (hlen ▸ Nat.zero_le a)
  exact ⟨e, he, sub, hkind⟩

/-- Each of the sixteen reads its field from an index on, and for a field that begins at or beyond `LEN` the error is
known. -/
theorem headerFields_fail {s : State} (hlen : s.len = 0) : ∀ i ∈ headerFields, Fails i s IsBounds := by
  obtain ⟨⟨-, hentry, -⟩, ⟨-, hlogo, -⟩, -, hnewlic, -⟩ := hdrByteSequences s
  obtain ⟨-, htitle, -⟩ := hdrTitle_answers s
  obtain ⟨-, hmanuf, -⟩ := hdrManuf_answers s
  obtain ⟨-, hgchk, -⟩ := hdrGchk_answers s
  simp only [headerFields, List.forall_mem_cons]
  exact ⟨fails_isBounds hlen hentry, fails_isBounds hlen hlogo, fails_isBounds hlen htitle,
    fails_isBounds hlen hmanuf, fails_isBounds hlen (hdrCgb_answers s).misses, fails_isBounds hlen hnewlic,
    fails_isBounds hlen (hdrSgb_answers s).misses, fails_isBounds hlen (hdrCtype_answers s).misses,
    fails_isBounds hlen (hdrRomsz_answers s).misses, fails_isBounds hlen (hdrRamsz_answers s).misses,
    fails_isBounds hlen (hdrDest_answers s).misses, fails_isBounds hlen (hdrOldlic_answers s).misses,
    fails_isBounds hlen (hdrVer_answers s).misses, fails_isBounds hlen (hdrHchk_answers s).misses,
    fails_isBounds hlen hgchk, fails_isBounds hlen (hdrLicensee_answers s).misses, List.forall_mem_nil _⟩

/-! ## The reads of an empty buffer (R52) -/

theorem memByte_nil (a : Nat) (f : Field) : memByte [] a f = .err (boundsErr .index f a 0) :=
  memByte_err [] a f (Nat.zero_le a)

theorem memRead_nil {n : Nat} (hn : n ≠ 1) (a : Nat) (f : Field) :
    memRead [] a n f = .err (boundsErr .start f a 0) := by
  rw [memRead_start [] a n f (Nat.zero_le a), if_neg hn]
  rfl

/-! ## `HDR.ALL` (R159) -/

/-- The record of an empty buffer: START in the slots that read a range, INDEX in those that read one byte (R52). -/
def emptyCartridge : Cartridge :=
  { entry := .err (boundsErr .start .entryPoint 0x0100 0), logo := .err (boundsErr .start .logo 0x0104 0),
    title := .err (boundsErr .start .title 0x0134 0), manuf := .err (boundsErr .start .manufacturer 0x0134 0),
    cgb := .err (boundsErr .index .cgbFlag 0x0143 0), newlic := .err (boundsErr .start .newLicensee 0x0144 0),
    sgb := .err (boundsErr .index .sgbFlag 0x0146 0), ctype := .err (boundsErr .index .cartridgeType 0x0147 0),
    romsz := .err (boundsErr .index .romSize 0x0148 0), ramsz := .err (boundsErr .index .ramSize 0x0149 0),
    dest := .err (boundsErr .index .destination 0x014A 0), oldlic := .err (boundsErr .index .oldLicensee 0x014B 0),
    ver := .err (boundsErr .index .version 0x014C 0), hchk := .err (boundsErr .index .headerChecksum 0x014D 0),
    gchk := .err (boundsErr .start .globalChecksum 0x014E 0), licensee := .err (boundsErr .index .licensee 0x014B 0),
    usable := false }

theorem hdrAllRecord_nil (p : Params) : hdrAllRecord p [] = emptyCartridge := by
  simp [hdrAllRecord, emptyCartridge, hdrEntry, hdrLogo, hdrTitle, hdrManuf, titleRegion, hdrCgb, hdrNewlic, hdrSgb,
    hdrCtype, hdrRomsz, hdrRamsz, hdrDest, hdrOldlic, hdrVer, hdrHchk, hdrGchk, hdrLicensee, memByte_nil, memRead_nil,
    Reply.isOk]

theorem kind_cartridgeNotes_emptyCartridge : (cartridgeNotes emptyCartridge).map ErrRec.kind =
    [.start, .start, .start, .start, .index, .start, .index, .index, .index, .index, .index, .index, .index, .index,
      .start, .index].map ErrKind.bounds := rfl

theorem isBounds_of_mem_cartridgeNotes {e : ErrRec} (he : e ∈ cartridgeNotes emptyCartridge) : IsBounds e := by
  have hkind := List.mem_map_of_mem (f := ErrRec.kind) he
  rw [kind_cartridgeNotes_emptyCartridge] at hkind
  obtain ⟨sub, -, hsub⟩ := List.mem_map.mp hkind
  exact ⟨sub, hsub.symm⟩

theorem hdrAll_of_buf_nil {s : State} (hbuf : s.buf = []) :
    Replies .hdrAll s (.ok (.cartridge emptyCartridge) (cartridgeNotes emptyCartridge)) := by
  rw [← hdrAllRecord_nil s.par, ← hbuf]
  rfl

/-! ## `CHK.GLB` and `VAL.ALL` (R202, R205 to R209) -/

theorem chkGlb_whole_of_buf_nil {s : State} (hbuf : s.buf = []) (hwhole : s.par.gchkRange = .whole) :
    Replies .chkGlb s (.ok (.half 0) []) := by
  have hsum := chkGlb_whole hwhole
  rw [hbuf] at hsum
  exact hsum

theorem valLogo_nil (p : Params) : valLogo p [] = undecodable .logo (boundsErr .start .logo 0x0104 0) :=
  valLogo_err (memRead_nil (by decide) _ _)

theorem valRam_nil (p : Params) : valRam p [] = undecodable .ram (boundsErr .index .cartridgeType 0x0147 0) :=
  valRam_ctype_err (by rw [hdrCtype, memByte_nil, bind_err])

theorem valHchk_nil :
    valHchk [] = undecodable .headerChecksum (boundsErr .start .headerChecksum 0x0134 0) := by
  rw [valHchk, chkHdr, memRead_nil (by decide), map_err, map_err, compareSums_computed_err]

/-- WHOLE has a sum of no bytes and no stored one to compare it with; HEADER has not even the sum (R202, R208). -/
theorem valGchk_nil (p : Params) : ∃ e, valGchk p [] = undecodable .globalChecksum e := by
  unfold valGchk chkGlb
  cases p.gchkRange with
  | whole =>
    rw [hdrGchk, memRead_nil (by decide), map_err]
    exact ⟨_, compareSums_stored_err _ _ _⟩
  | header =>
    rw [memRead_nil (by decide), map_err]
    exact ⟨_, compareSums_computed_err _ _⟩

/-- `VAL.ALL` over an empty buffer: each check fails for want of its input. -/
theorem valAll_of_buf_nil {s : State} (hbuf : s.buf = []) :
    ∃ r, Replies .valAll s (.ok (.report r) []) ∧ r.pass = false ∧
      ∀ c ∈ [r.logo, r.ram, r.hchk, r.gchk], c.pass = false ∧ c.reason = .undecodable := by
  obtain ⟨e, hgchk⟩ := valGchk_nil s.par
  refine ⟨valAll s.par s.buf, rfl, ?_⟩
  rw [hbuf, valAll, valLogo_nil, valRam_nil, valHchk_nil, hgchk]
  simp only [List.forall_mem_cons]
  exact ⟨rfl, ⟨rfl, rfl⟩, ⟨rfl, rfl⟩, ⟨rfl, rfl⟩, ⟨rfl, rfl⟩, List.forall_mem_nil _⟩

/-! ## Before the first load (R314) -/

/-- `DIS.RUN` over an empty buffer, the run over no zero bytes (R232, R236). -/
theorem disRun_of_len_zero {s : State} (hlen : s.len = 0) (m : Mode) :
    exec (.disRun m) s = .next { started m s with status := .done, resp := some (.ok (.listing []) []) } := by
  obtain ⟨out, rfl, hrun⟩ := zeroBytesAreNops m s fun a ha => absurd ha (by omega)
  rw [hlen] at hrun
  exact hrun

theorem epdSorted_of_keys_nil {s : State} (hkeys : s.keys = []) : Replies .epdSorted s (.ok (.keys []) []) := by
  have hsorted : Replies .epdSorted s (.ok (.keys (sortKeys s.keys)) []) := rfl
  rw [hkeys] at hsorted
  exact hsorted

/-- Settles O58: the reads fail, and the other answers are those of an empty buffer and an empty set. -/
theorem beforeTheFirstLoad : Obligations.BeforeTheFirstLoad := by
  unfold Obligations.BeforeTheFirstLoad
  intro s hmem hkeys
  have hbuf : s.buf = [] := congrArg (List.map Prod.snd) hmem
  have hlen : s.len = 0 := congrArg List.length hmem
  refine ⟨fun index => ?_, fun r => ?_, headerFields_fail hlen, ?_, chkGlb_whole_of_buf_nil hbuf,
    valAll_of_buf_nil hbuf, disRun_of_len_zero hlen, ?_, epdSorted_of_keys_nil hkeys⟩
  · exact ⟨_, bufGetb_replies (hbuf ▸ memByte_nil _ _), rfl⟩
  · exact ⟨_, bufGetr_range_error (checkRange_start (hlen ▸ Nat.zero_le _)), rfl⟩
  · exact ⟨emptyCartridge, _, hdrAll_of_buf_nil hbuf, by decide, rfl, rfl, fun _ => isBounds_of_mem_cartridgeNotes⟩
  · exact ⟨_, exec_epdInsert_err (hbuf ▸ memRead_nil (by decide) _ _), rfl⟩

end Sys2Proof.Proofs
